-- ==== Sys2Proof/Word.lean ====
section
/-! DEFINITION. The plainest types of the HMAC engine: bytes, the named values of `PHASE` and `ERR`,
the two caller spaces, and the fields of the command descriptor. Every function over them that a test
could show wrong stands in `Decode.lean` or under `Machine/`. -/

namespace Sys2Proof

/-- One byte, bit 7 most significant (00_scope.md section 6). -/
abbrev Byte := BitVec 8

/-- A byte sequence, index 0 first (00_scope.md section 6; R34). -/
abbrev Bytes := List Byte

/-- The values of the sequencer register `PHASE` (R11, R50). The reserved codes 11 to 15 are never
produced and have no name here (R56). DESIGN CHOICE, safe (log 9). -/
inductive Phase where
  | idle | keynorm | keyhashWait | pads | inner | innerWait | outer | outerWait
  | done | failed | dead
  deriving DecidableEq, Repr

/-- The values of `ERR` (R21, R51). The reserved code 3 is never produced (R56). -/
inductive ErrCode where
  | noError | invalidHashParameters | allocationFailure
  deriving DecidableEq, Repr

/-- The two caller-owned byte spaces the engine reads (R30, R31). -/
inductive Space where
  | key | msg
  deriving DecidableEq, Repr

/-- The fields of a descriptor written to `CMD` (R24, R45). -/
structure Descriptor where
  op : BitVec 8
  klen : Nat
  mlen : Nat
  deriving DecidableEq, Repr

end Sys2Proof
end

