-- ==== Sys2Proof/Config.lean ====
section
/-! DEFINITION. What an instance fixes (R2 to R7) and the model's free values. The free values are
opaque constants without a body: no proof can see a value of them. -/

namespace Sys2Proof

/-- The hash capability an instance is bound to (R2, R98). `external id` is any function from byte
sequences to `H` bytes, left uninterpreted; `fixture` is the spec's own test capability
(95_test_vectors.md section 2), so that an instance of the spec's test vectors can be evaluated (log 4). -/
inductive HashCap where
  | external (id : Nat)
  | fixture
  deriving DecidableEq, Repr

/-- The parameters of one engine instance (R2, R6, R7): block size `B`, output size `H`, the hash
capability, the length width `LW` and the capacity `CAT_CAP`; `none` is infinity. -/
structure Inst where
  B : Nat
  H : Nat
  hash : HashCap
  lw : Option Nat
  catCap : Option Nat
  deriving DecidableEq, Repr

/-- The parameter domain (R5, R6, R7): `B >= 1`, `H >= 1`, `LW >= 1`, `CAT_CAP >= B + H`.
`H > B` is allowed: such an instance exists and is DEAD (R3, R132). -/
def Inst.wf (c : Inst) : Bool :=
  decide (1 ≤ c.B) && decide (1 ≤ c.H) && c.lw.all (fun w => decide (1 ≤ w))
    && c.catCap.all (fun n => decide (c.B + c.H ≤ n))

/-- A length the `LW`-bit fields can hold: `n < 2^LW` (R6). -/
def Inst.lengthFits (c : Inst) (n : Nat) : Bool :=
  c.lw.all fun w => decide (n < 2 ^ w)

/-- A length the `LW + 1` bits of a request frame's `n` can hold: `n < 2^(LW+1)` (R52). -/
def Inst.requestLengthFits (c : Inst) (n : Nat) : Bool :=
  c.lw.all fun w => decide (n < 2 ^ (w + 1))

/-- The instance `State.reset` has: the source's example sizes, lengths and capacity unbounded
(R2, R6, R7). DESIGN CHOICE, unsafe where a statement rests on it (log 2). -/
def Config.exampleInst : Inst :=
  { B := 64, H := 32, hash := .external 0, lw := none, catCap := none }

/-- The answer of the external capability `id` with output size `H` to a request: an uninterpreted
total function of the request's bytes with exactly `H` bytes of result (R98; log 4). -/
opaque Config.externalHash (id H : Nat) (request : Bytes) : Vector Byte H

/-- The byte standing at an index of a caller space where the HOST has placed nothing: a FREE VALUE
(R138: the engine takes "whatever lies behind"; log 8). -/
opaque Config.unplacedByte (sp : Space) (i : Nat) : Byte

end Sys2Proof
end

