-- ==== Sys2Proof/Syntax.lean ====
section
/-! DEFINITION. The operations of the engine, one constructor per row of spec/opcode_table.json. -/

namespace Sys2Proof

/-- The host command, the micro-operations, the two hash frames and the reset signal (R59). -/
inductive Instr where
  /-- COMPUTE with the descriptor's two lengths (R45, R60). -/
  | compute (klen mlen : Nat)
  /-- KEYNORM.LONG (R71). -/
  | keynormLong
  /-- KEYNORM.SHORT (R73). -/
  | keynormShort
  /-- KEYNORM.EQUAL (R74). -/
  | keynormEqual
  /-- KEYHASH.RSP (R72). -/
  | keyhashRsp
  /-- PADS (R80). -/
  | pads
  /-- INNER.REQ (R85). -/
  | innerReq
  /-- INNER.RSP (R87). -/
  | innerRsp
  /-- OUTER.REQ (R90). -/
  | outerReq
  /-- OUTER.RSP (R91). -/
  | outerRsp
  /-- HASHREQ: the length `n`, then the data bytes (R52, R100). -/
  | hashreq (n : Nat) (data : Bytes)
  /-- HASHRSP: the digest bytes (R53, R101). -/
  | hashrsp (digest : Bytes)
  /-- RESET (R130). -/
  | reset
  deriving DecidableEq, Repr

end Sys2Proof
end

