-- ==== Sys2Proof/WellFormed.lean ====
section
/-! DEFINITION. Which terms of `Instr` the formats of 30_encoding.md can carry on a given instance. -/

namespace Sys2Proof

/-- An instruction its format can carry: `klen`, `mlen` in `0 .. 2^LW - 1` (R6, R56); a request's
length field is the exact number of its bytes, at least 1 and below `2^(LW+1)` (R52, R100); a response
has exactly `H` bytes (R53). The other rows have no operand. -/
def Instr.wf (c : Inst) : Instr → Bool
  | .compute klen mlen => c.lengthFits klen && c.lengthFits mlen
  | .hashreq n data => decide (n = data.length) && decide (1 ≤ n) && c.requestLengthFits n
  | .hashrsp digest => decide (digest.length = c.H)
  | .keynormLong => true
  | .keynormShort => true
  | .keynormEqual => true
  | .keyhashRsp => true
  | .pads => true
  | .innerReq => true
  | .innerRsp => true
  | .outerReq => true
  | .outerRsp => true
  | .reset => true

end Sys2Proof
end

