-- ==== Sys2Proof/Decode.lean ====
section
/-! DEFINITION. The codes of 30_encoding.md: the formats CMD, PHASE, ERR, HASHREQ, HASHRSP and the
reset signal, a decoder total on all of them that refuses by name, and after it the encoder. -/

namespace Sys2Proof

/-- Why a code is no instruction. -/
inductive DecodeError where
  /-- `op` is not 0x01 (R47). -/
  | reservedOp (op : BitVec 8)
  /-- The word has bits above the `8 + 2*LW` of format CMD (R45). -/
  | descriptorTooWide
  /-- PHASE code 11 to 15 (R50, R56). -/
  | reservedPhase (code : BitVec 4)
  /-- IDLE, DONE, FAILED, DEAD select no micro-operation (R59). -/
  | noMicroOperation (p : Phase)
  /-- A length of `2^LW` or more (R6). -/
  | lengthNotExpressible
  /-- A request whose length field is not the number of its bytes, or an empty one (R52, R100). -/
  | badRequestLength
  /-- A request whose length field has more than `LW + 1` bits (R52). -/
  | requestLengthNotExpressible
  /-- A response that does not have exactly `H` bytes (R53). -/
  | badResponseLength
  deriving DecidableEq, Repr

/-- One code as it stands on its interface: a descriptor (any `LW`), the 4-bit selector of a
micro-operation, a hash frame, or the reset input. -/
inductive Code where
  | descriptor (d : Descriptor)
  | selector (code : BitVec 4)
  | requestFrame (n : Nat) (data : Bytes)
  | responseFrame (digest : Bytes)
  | resetSignal
  deriving DecidableEq, Repr

/-- The code of a phase (R11, R50). -/
def phaseCode : Phase → BitVec 4
  | .idle => 0
  | .keynorm => 1
  | .keyhashWait => 2
  | .pads => 3
  | .inner => 4
  | .innerWait => 5
  | .outer => 6
  | .outerWait => 7
  | .done => 8
  | .failed => 9
  | .dead => 10

/-- The phase a code names; the reserved codes name none (R50, R56). -/
def phaseOfCode (code : BitVec 4) : Option Phase :=
  match code.toNat with
  | 0 => some .idle
  | 1 => some .keynorm
  | 2 => some .keyhashWait
  | 3 => some .pads
  | 4 => some .inner
  | 5 => some .innerWait
  | 6 => some .outer
  | 7 => some .outerWait
  | 8 => some .done
  | 9 => some .failed
  | 10 => some .dead
  | _ => none

/-- The code of an error (R21, R51). -/
def errCode : ErrCode → BitVec 2
  | .noError => 0
  | .invalidHashParameters => 1
  | .allocationFailure => 2

/-- The error a code names; 3 names none (R51, R56). -/
def errOfCode (code : BitVec 2) : Option ErrCode :=
  match code.toNat with
  | 0 => some .noError
  | 1 => some .invalidHashParameters
  | 2 => some .allocationFailure
  | _ => none

/-- The one defined operation code (R46). -/
def computeOp : BitVec 8 := 0x01

/-- The word of a descriptor for length fields of `lw` bits: `op` in bits 7 to 0, `klen` above it,
`mlen` above that (R45). -/
def packCmd (lw : Nat) (d : Descriptor) : Nat :=
  d.op.toNat + 2 ^ 8 * d.klen + 2 ^ (8 + lw) * d.mlen

/-- The fields of a CMD word (R45). -/
def unpackCmd (lw w : Nat) : Except DecodeError Descriptor :=
  if w < 2 ^ (8 + 2 * lw) then
    .ok { op := BitVec.ofNat 8 (w % 2 ^ 8)
          klen := w / 2 ^ 8 % 2 ^ lw
          mlen := w / 2 ^ (8 + lw) }
  else
    .error .descriptorTooWide

/-- The command a descriptor's `op` selects (R46, R47). -/
def decodeDescriptor (d : Descriptor) : Except DecodeError Instr :=
  if d.op = computeOp then .ok (.compute d.klen d.mlen) else .error (.reservedOp d.op)

/-- The command in a CMD word of `8 + 2*lw` bits. -/
def decodeCmdWord (lw w : Nat) : Except DecodeError Instr :=
  match unpackCmd lw w with
  | .ok d => decodeDescriptor d
  | .error e => .error e

/-- The micro-operation a phase selects; `cmp` is `KLEN` compared with `B`, which chooses among the
three KEYNORM forms (R59, R70). -/
def microOp (p : Phase) (cmp : Ordering) : Except DecodeError Instr :=
  match p with
  | .keynorm =>
    match cmp with
    | .gt => .ok .keynormLong
    | .lt => .ok .keynormShort
    | .eq => .ok .keynormEqual
  | .keyhashWait => .ok .keyhashRsp
  | .pads => .ok .pads
  | .inner => .ok .innerReq
  | .innerWait => .ok .innerRsp
  | .outer => .ok .outerReq
  | .outerWait => .ok .outerRsp
  | .idle => .error (.noMicroOperation .idle)
  | .done => .error (.noMicroOperation .done)
  | .failed => .error (.noMicroOperation .failed)
  | .dead => .error (.noMicroOperation .dead)

/-- The instruction of a code on instance `c`, with `cmp` the comparison of `KLEN` with `B`. -/
def decode (c : Inst) (cmp : Ordering) : Code → Except DecodeError Instr
  | .descriptor d =>
    if c.lengthFits d.klen && c.lengthFits d.mlen then decodeDescriptor d
    else .error .lengthNotExpressible
  | .selector code =>
    match phaseOfCode code with
    | some p => microOp p cmp
    | none => .error (.reservedPhase code)
  | .requestFrame n data =>
    if n = data.length ∧ 1 ≤ n then
      if c.requestLengthFits n then .ok (.hashreq n data) else .error .requestLengthNotExpressible
    else .error .badRequestLength
  | .responseFrame digest =>
    if digest.length = c.H then .ok (.hashrsp digest) else .error .badResponseLength
  | .resetSignal => .ok .reset

/-- The code of an instruction, from the same formats (R45, R46, R50, R52, R53, R59). -/
def encode : Instr → Code
  | .compute klen mlen => .descriptor { op := computeOp, klen := klen, mlen := mlen }
  | .keynormLong => .selector 1
  | .keynormShort => .selector 1
  | .keynormEqual => .selector 1
  | .keyhashRsp => .selector 2
  | .pads => .selector 3
  | .innerReq => .selector 4
  | .innerRsp => .selector 5
  | .outerReq => .selector 6
  | .outerRsp => .selector 7
  | .hashreq n data => .requestFrame n data
  | .hashrsp digest => .responseFrame digest
  | .reset => .resetSignal

/-- The comparison of `KLEN` with `B` under which an instruction is the one its selector names
(R59): fixed for the three KEYNORM forms, any for the others. -/
def selectedUnder : Instr → Ordering → Bool
  | .keynormLong, cmp => cmp == .gt
  | .keynormShort, cmp => cmp == .lt
  | .keynormEqual, cmp => cmp == .eq
  | .compute _ _, _ => true
  | .keyhashRsp, _ => true
  | .pads, _ => true
  | .innerReq, _ => true
  | .innerRsp, _ => true
  | .outerReq, _ => true
  | .outerRsp, _ => true
  | .hashreq _ _, _ => true
  | .hashrsp _, _ => true
  | .reset, _ => true

/-- The CMD word of `COMPUTE` for length fields of `lw` bits. -/
def computeWord (lw klen mlen : Nat) : Nat :=
  packCmd lw { op := computeOp, klen := klen, mlen := mlen }

/-- The instruction of a word as spec/opcode_table.json numbers it (log 16). The table's words are of
two formats: a CMD word under the mask 0xFF (match 0x01), else a PHASE selector under the mask 0xF;
`KLEN` counts as 0, the value of the bits the table does not give. RESET alone has no bits. -/
def decodeTableWord (nbits w : Nat) : Option Instr :=
  if nbits = 0 then some .reset
  else
    match decodeCmdWord ((nbits - 8) / 2) w with
    | .ok i => some i
    | .error _ =>
      match phaseOfCode (BitVec.ofNat 4 w) with
      | some p => (microOp p .lt).toOption
      | none => none

end Sys2Proof
end

