-- ==== Sys2Proof/Machine/State.lean ====
section
/-! DEFINITION. The state of the engine and its surroundings as plain data, the reasons a step can
stop, and the state after reset. -/

namespace Sys2Proof.Machine

/-- The content of a caller space as (index, byte) pairs, indices strictly rising. An index that is
not listed has nothing placed at it (log 8). -/
abbrev Memory := List Host.Cell

/-- One move of the world around the sequencer, in the order the moves come (log 3). -/
inductive Event where
  /-- The agent whose turn PHASE names takes its step: ENGINE, or HASH with its answer (R13). -/
  | advance
  /-- HASH puts a HASHRSP frame on the interface (R101). -/
  | respond (digest : Bytes)
  /-- The HOST writes CMD (R24). -/
  | command (d : Descriptor)
  /-- The HOST places bytes in KEY or MSG from an index on (R33, R39). -/
  | place (sp : Space) (i : Nat) (bs : Bytes)
  /-- The HOST reads STATUS (R23). -/
  | readStatus
  /-- The HOST reads TAG[i] (R54, R92). -/
  | readTag (i : Nat)
  /-- Reset is asserted (R130). -/
  | reset
  /-- Time passes and no agent steps (R12, R104). -/
  | pass
  deriving DecidableEq, Repr

/-- Everything the spec gives the machine (10_state.md), the caller spaces it reads, the parameters
of the instance, and the model's own list of moves to come. -/
structure State where
  /-- The instance parameters, which no step changes (R2, R28; log 1). -/
  inst : Inst
  /-- PHASE (R11). -/
  phase : Phase
  /-- ERR (R21). -/
  err : ErrCode
  /-- TAGV (R22). -/
  tagv : Bool
  /-- KLEN (R20), below 2^LW. -/
  klen : Nat
  /-- MLEN (R20), below 2^LW. -/
  mlen : Nat
  /-- K0, B bytes (R14). -/
  k0 : Bytes
  /-- IPADB, B bytes (R15). -/
  ipadb : Bytes
  /-- OPADB, B bytes (R15). -/
  opadb : Bytes
  /-- CAT1: the bytes in use; every further byte of its storage is zero (R16; log 11). -/
  cat1 : Bytes
  /-- CAT2, B + H bytes (R17). -/
  cat2 : Bytes
  /-- IDIG, H bytes (R18). -/
  idig : Bytes
  /-- TAG, H bytes (R19). -/
  tag : Bytes
  /-- HREQ, the outstanding hash request (R25). -/
  hreq : Option Bytes
  /-- The KEY space (R30). -/
  keyMem : Memory
  /-- The MSG space (R31). -/
  msgMem : Memory
  /-- The MODEL'S own field: the moves to come, oldest first; none left means `advance` (log 3). -/
  events : List Event
  deriving DecidableEq, Repr

/-- Why the machine stops with a fault. -/
inductive Fault where
  /-- Raised by the event `readTag i` with `i >= H`: R54 gives TAG the indices 0 to H - 1 only.
  Safe: the model stops where the spec says nothing. -/
  | noSuchTagByte (i : Nat)
  deriving DecidableEq, Repr

/-- Why an instruction or a move has no meaning in a state. -/
inductive Refusal where
  /-- Raised by an arm of `exec` whose instruction has no meaning yet; none is left. Safe. -/
  | notModelled (mnemonic : String)
  /-- Raised by `step` on an instance outside the parameter domain (R5 to R7). Safe. -/
  | noSuchInstance
  /-- Raised by COMPUTE with a length of 2^LW or more, which no descriptor holds (R6), and by HASHREQ
  with an `n` of 2^(LW+1) or more, which no frame holds (R52). Safe. -/
  | lengthNotExpressible
  /-- Raised by a micro-operation outside its selector (R59): the spec gives no agent that move. Safe. -/
  | notSelected
  /-- Raised by a micro-operation that sends a request while one is outstanding: R100 requires
  HREQ = none. No reachable state does this (R25). Safe. -/
  | requestOutstanding
  /-- Raised by a response with no request outstanding (R105; after a reset R133). Unsafe: the
  capability and the platform are trusted not to do this (log 5, log 6). -/
  | noRequestOutstanding
  /-- Raised by HASHRSP with a number of bytes other than H (R105). Unsafe (log 5). -/
  | malformedResponse
  /-- Raised by HASHRSP with bytes that are not `hash` of the request (R98). Unsafe (log 5). -/
  | answerNotOfCapability
  /-- Raised by HASHREQ with a frame the engine does not send in that state (R107). Safe. -/
  | frameNotSent
  /-- Raised by the event `place` on a borrowed byte while BUSY (R33, 93 U2). Unsafe: the HOST is
  trusted not to do this (log 7). -/
  | borrowedByteWritten
  deriving DecidableEq, Repr

/-- The state after reset of an instance with nothing placed in its caller spaces (R29, R131, R132). -/
def State.resetOf (c : Inst) : State :=
  { inst := c
    phase := if c.H ≤ c.B then .idle else .dead
    err := if c.H ≤ c.B then .noError else .invalidHashParameters
    tagv := false
    klen := 0
    mlen := 0
    k0 := List.replicate c.B 0
    ipadb := List.replicate c.B 0
    opadb := List.replicate c.B 0
    cat1 := []
    cat2 := List.replicate (c.B + c.H) 0
    idig := List.replicate c.H 0
    tag := List.replicate c.H 0
    hreq := none
    keyMem := []
    msgMem := []
    events := [] }

/-- The machine right after reset, for the instance of log 2. -/
def State.reset : State := State.resetOf Config.exampleInst

end Sys2Proof.Machine
end

