-- ==== Sys2Proof/Machine/HashCapability.lean ====
section
/-! DEFINITION. The consumed hash capability: the answer to a request (R98), uninterpreted for an
external capability, and the spec's fixture (95_test_vectors.md section 2) for its test instances. -/

namespace Sys2Proof.Machine

/-- One byte into the fixture's 32-bit value: XOR into the low byte, then multiply modulo 2^32. -/
def fixtureStep (h : BitVec 32) (b : Byte) : BitVec 32 :=
  (h ^^^ b.setWidth 32) * 0x01000193

/-- The fixture's 32-bit value of a byte sequence. -/
def fixtureValue (q : Bytes) : BitVec 32 := q.foldl fixtureStep 0x811C9DC5

/-- `FIX(q)` for `H` = 4: the value's four bytes, most significant first. For another `H` the first
`H` of these bytes, then zeros, so that the contract of R98 holds (log 4). -/
def fixtureDigest (H : Nat) (q : Bytes) : Bytes :=
  (List.range H).map fun i =>
    if i < 4 then (fixtureValue q >>> (24 - 8 * i)).setWidth 8 else 0

/-- `hash(q)` of the instance's capability: exactly `H` bytes, a function of the request (R98). -/
def hashOf (c : Inst) (q : Bytes) : Bytes :=
  match c.hash with
  | .external id => (Config.externalHash id c.H q).toList
  | .fixture => fixtureDigest c.H q

end Sys2Proof.Machine
end

