-- ==== Sys2Proof/Machine/Operands.lean ====
section
/-! DEFINITION. The operand forms: the constant sequences (R55), the byte-wise XOR and right padding,
and `MemRead` over the two caller spaces (R30, R31, R48). -/

namespace Sys2Proof.Machine

/-- `IPAD_BYTE` (R4). -/
def ipadByte : Byte := 0x36

/-- `OPAD_BYTE` (R4). -/
def opadByte : Byte := 0x5c

/-- `rep(b, n)`: `n` bytes `b` (R55). -/
def rep (b : Byte) (n : Nat) : Bytes := List.replicate n b

/-- `zeros(n)` (R55). -/
def zeros (n : Nat) : Bytes := rep 0 n

/-- Every byte XOR one constant byte, no carry between positions (R8, R82). -/
def xorEach (b : Byte) (xs : Bytes) : Bytes := xs.map fun x => x ^^^ b

/-- A sequence with zeros on the right up to `n` bytes (R72, R73). -/
def padRight (n : Nat) (xs : Bytes) : Bytes := xs ++ zeros (n - xs.length)

/-- The byte placed at an index, if one is. -/
def Memory.read : Memory → Nat → Option Byte
  | [], _ => none
  | (a, b) :: rest, i => if i = a then some b else Memory.read rest i

/-- The content of a caller space. -/
def State.space (s : State) : Space → Memory
  | .key => s.keyMem
  | .msg => s.msgMem

/-- The byte the HOST placed at index `i` of a space, if any. -/
def State.readByte (s : State) (sp : Space) (i : Nat) : Option Byte :=
  Memory.read (s.space sp) i

/-- The byte the engine reads at index `i` of a space: the placed one, else the free value
(R30, R31, R138; log 8). -/
def State.byteAt (s : State) (sp : Space) (i : Nat) : Byte :=
  (s.readByte sp i).getD (Config.unplacedByte sp i)

/-- `MemRead(sp, i, n)`: the `n` bytes from index `i` on, no side effect (R30, R31). -/
def State.memRead (s : State) (sp : Space) (i n : Nat) : Bytes :=
  (List.range n).map fun j => s.byteAt sp (i + j)

/-- The key of the current invocation, `MemRead(KEY, 0, KLEN)` (R48). -/
def State.keyBytes (s : State) : Bytes := s.memRead .key 0 s.klen

/-- The message of the current invocation, `MemRead(MSG, 0, MLEN)` (R48). -/
def State.msgBytes (s : State) : Bytes := s.memRead .msg 0 s.mlen

/-- `TAG[i]` as the HOST reads it (R54): none outside `0 .. H-1`. -/
def State.readTag (s : State) (i : Nat) : Option Byte :=
  if i < s.inst.H then some (s.tag.getD i 0) else none

/-- How many bytes of a space the current invocation borrows (R33). -/
def State.borrowed (s : State) : Space → Nat
  | .key => s.klen
  | .msg => s.mlen

end Sys2Proof.Machine
end

