-- ==== Sys2Proof/Machine/Flags.lean ====
section
/-! DEFINITION. The flags and the status register (R22, R23, R49), the classes of phases the rules
name, and the two comparisons the engine makes (R8, R70, R111). -/

namespace Sys2Proof.Machine

/-- `BUSY` as a function of the phase: 1 exactly for codes 1 to 7 (R22). -/
def phaseBusy (p : Phase) : Bool :=
  decide (1 ≤ (phaseCode p).toNat) && decide ((phaseCode p).toNat ≤ 7)

/-- IDLE, DONE, FAILED: the phases R13 calls `ready`. -/
def phaseReady : Phase → Bool
  | .idle => true
  | .done => true
  | .failed => true
  | _ => false

/-- The three phases in which a hash request is outstanding (R25). -/
def phaseWaits : Phase → Bool
  | .keyhashWait => true
  | .innerWait => true
  | .outerWait => true
  | _ => false

/-- The flag `BUSY` (R22). -/
def State.busy (s : State) : Bool := phaseBusy s.phase

/-- `STATUS`: BUSY in bit 7, TAGV in bit 6, ERR in bits 5 to 4, PHASE in bits 3 to 0 (R23, R49). -/
def State.status (s : State) : BitVec 8 :=
  BitVec.ofBool s.busy ++ BitVec.ofBool s.tagv ++ errCode s.err ++ phaseCode s.phase

/-- `KLEN` compared with `B` as natural numbers (R8, R70). -/
def State.klenCmp (s : State) : Ordering := compare s.klen s.inst.B

/-- `B + mlen > CAT_CAP`, a natural-number sum without wrap (R8, R111); never with infinite capacity (R7). -/
def capacityExceeded (c : Inst) (mlen : Nat) : Bool :=
  c.catCap.any fun n => decide (n < c.B + mlen)

end Sys2Proof.Machine
end

