-- ==== Sys2Proof/Machine/Ops.lean ====
section
/-! DEFINITION. The named operations over the state: one update per piece of state, memory writes,
the hash interface (R100, R101), `Zeroise()` (R93), taking a failure (R113) and reset (R131). -/

namespace Sys2Proof.Machine

/-! ### Updates -/

def State.setPhase (s : State) (p : Phase) : State := { s with phase := p }
def State.setErr (s : State) (e : ErrCode) : State := { s with err := e }
/-- `TAG` and `TAGV` are only ever written together (R19, R22). -/
def State.setTag (s : State) (bs : Bytes) (valid : Bool) : State := { s with tag := bs, tagv := valid }
def State.setLens (s : State) (klen mlen : Nat) : State := { s with klen := klen, mlen := mlen }
def State.setK0 (s : State) (bs : Bytes) : State := { s with k0 := bs }
def State.setPads (s : State) (ip op : Bytes) : State := { s with ipadb := ip, opadb := op }
/-- Write CAT1 from index 0 on; the storage beyond the bytes in use is zero (R16). -/
def State.setCat1 (s : State) (bs : Bytes) : State := { s with cat1 := bs }
def State.setCat2 (s : State) (bs : Bytes) : State := { s with cat2 := bs }
def State.setIdig (s : State) (bs : Bytes) : State := { s with idig := bs }
def State.setHreq (s : State) (q : Option Bytes) : State := { s with hreq := q }
def State.setEvents (s : State) (es : List Event) : State := { s with events := es }
def State.setSpace (s : State) (sp : Space) (m : Memory) : State :=
  match sp with
  | .key => { s with keyMem := m }
  | .msg => { s with msgMem := m }

/-! ### Memory -/

/-- Write one byte, keeping the indices strictly rising. -/
def Memory.write : Memory → Nat → Byte → Memory
  | [], i, v => [(i, v)]
  | (a, b) :: rest, i, v =>
    if i < a then (i, v) :: (a, b) :: rest
    else if i = a then (i, v) :: rest
    else (a, b) :: Memory.write rest i v

/-- Write a sequence from index `i` on, index 0 of the sequence first (R34). -/
def Memory.writeAll : Memory → Nat → Bytes → Memory
  | m, _, [] => m
  | m, i, b :: bs => Memory.writeAll (Memory.write m i b) (i + 1) bs

/-- The canonical form: indices strictly rising. -/
def Memory.wf : Memory → Bool
  | [] => true
  | [_] => true
  | (a, _) :: (a', b') :: rest => decide (a < a') && Memory.wf ((a', b') :: rest)

/-- The HOST's placing of bytes in a caller space (R33, R39). -/
def State.placeBytes (s : State) (sp : Space) (i : Nat) (bs : Bytes) : State :=
  s.setSpace sp (Memory.writeAll (s.space sp) i bs)

/-! ### The hash interface -/

/-- `HashRequest(q)`, then `PHASE <- p`, as every issuing micro-operation ends (R100, R71, R85, R90). -/
def hashRequest (q : Bytes) (p : Phase) (s : State) : Host.Outcome State Fault Refusal :=
  match s.hreq with
  | some _ => .refused .requestOutstanding
  | none => .next ((s.setHreq (some q)).setPhase p)

/-- `g <- HashResponse()`, then what the micro-operation does with `g` (R101): `HREQ <- none`. -/
def hashResponse (store : Bytes → State → State) (s : State) : Host.Outcome State Fault Refusal :=
  match s.hreq with
  | none => .refused .noRequestOutstanding
  | some q => .next (store (hashOf s.inst q) (s.setHreq none))

/-! ### What each response step stores -/

/-- `Zeroise()` (R93). -/
def State.zeroise (s : State) : State :=
  { s with
    k0 := zeros s.inst.B
    ipadb := zeros s.inst.B
    opadb := zeros s.inst.B
    cat1 := []
    cat2 := zeros (s.inst.B + s.inst.H)
    idig := zeros s.inst.H
    klen := 0
    mlen := 0 }

/-- KEYHASH.RSP after the response (R72): `K0` is the digest, then zeros up to `B` bytes. -/
def storeKeyDigest (g : Bytes) (s : State) : State :=
  (s.setK0 (g ++ zeros (s.inst.B - s.inst.H))).setPhase .pads

/-- INNER.RSP after the response (R87). -/
def storeInnerDigest (g : Bytes) (s : State) : State :=
  (s.setIdig g).setPhase .outer

/-- OUTER.RSP after the response (R91): the tag, `TAGV`, `Zeroise()`, DONE, in one step. -/
def storeTag (g : Bytes) (s : State) : State :=
  ((s.setTag g true).zeroise).setPhase .done

/-! ### What each issuing step sends -/

/-- KEYNORM.LONG: the whole key (R71). -/
def sendKey (s : State) : Host.Outcome State Fault Refusal :=
  hashRequest s.keyBytes .keyhashWait s

/-- INNER.REQ: `CAT1 <- IPADB` then the message, and its request (R85). -/
def sendInner (s : State) : Host.Outcome State Fault Refusal :=
  hashRequest (s.ipadb ++ s.msgBytes) .innerWait (s.setCat1 (s.ipadb ++ s.msgBytes))

/-- OUTER.REQ: `CAT2 <- OPADB` then `IDIG`, and its request (R90). -/
def sendOuter (s : State) : Host.Outcome State Fault Refusal :=
  hashRequest (s.opadb ++ s.idig) .outerWait (s.setCat2 (s.opadb ++ s.idig))

/-! ### Failures and reset -/

/-- `TAG <- zeros(H)`, `TAGV <- 0`: the previous result is discarded (R19, R62). -/
def State.clearTag (s : State) : State := s.setTag (zeros s.inst.H) false

/-- `raise AllocationFailure` (R113). There is no saved state, no vector and no return: FAILED
accepts the next command (R116). -/
def State.raiseAllocationFailure (s : State) : State :=
  (((s.setErr .allocationFailure).clearTag).zeroise).setPhase .failed

/-- `raise InvalidHashParameters` changes nothing (R68, R113): the instance is DEAD with `ERR = 1`
since reset. -/
def State.raiseInvalidHashParameters (s : State) : State := s

/-- The configuration check at reset release (R132): the phase. -/
def configPhase (c : Inst) : Phase := if c.H ≤ c.B then .idle else .dead

/-- The configuration check at reset release (R132): the error. -/
def configErr (c : Inst) : ErrCode := if c.H ≤ c.B then .noError else .invalidHashParameters

/-- The engine's reset (R130 to R133): every register and buffer, not the parameters, not the
caller's spaces, and not the moves still to come. -/
def State.engineReset (s : State) : State :=
  ((((s.clearTag).zeroise).setHreq none).setErr (configErr s.inst)).setPhase (configPhase s.inst)

end Sys2Proof.Machine
end

