-- ==== Sys2Proof/Machine/Command.lean ====
section
/-! DEFINITION. The host command COMPUTE (40_compute_command.md). -/

namespace Sys2Proof.Machine

/-- Acceptance in a valid instance (R62): the previous tag is discarded, then the capacity decides
between AllocationFailure (R111) and the start of the invocation. -/
def acceptCompute (klen mlen : Nat) (s : State) : State :=
  if capacityExceeded s.inst mlen then (s.clearTag).raiseAllocationFailure
  else ((((s.clearTag).setErr .noError).setLens klen mlen).setPhase .keynorm)

/-- COMPUTE (R60 to R62, R68): accepted when ready; in DEAD accepted and failing with
InvalidHashParameters, no state changed; while busy not accepted, no effect (R61). -/
def execCompute (klen mlen : Nat) (s : State) : Host.Outcome State Fault Refusal :=
  if s.inst.lengthFits klen && s.inst.lengthFits mlen then
    if phaseReady s.phase then .next (acceptCompute klen mlen s)
    else if s.phase = .dead then .next s.raiseInvalidHashParameters
    else .next s
  else .refused .lengthNotExpressible

end Sys2Proof.Machine
end

