-- ==== Sys2Proof/Machine/HashInterface.lean ====
section
/-! DEFINITION. The two frames of the hash interface (45_hash_interface.md) as transitions: the step
during which the frame passes (log 13). -/

namespace Sys2Proof.Machine

/-- The request the engine sends in this state, if it sends one (R107). -/
def requestToSend (s : State) : Option Bytes :=
  match s.phase with
  | .keynorm => if s.inst.B < s.klen then some s.keyBytes else none
  | .inner => some (s.ipadb ++ s.msgBytes)
  | .outer => some (s.opadb ++ s.idig)
  | _ => none

/-- The issuing step of the phase (R71, R85, R90). -/
def sendByPhase (s : State) : Host.Outcome State Fault Refusal :=
  match s.phase with
  | .keynorm => sendKey s
  | .inner => sendInner s
  | .outer => sendOuter s
  | _ => .refused .frameNotSent

/-- HASHREQ (R52, R100, R107): the frame passes within the one step of the micro-operation that
issues it, and only the frame the engine sends in that state can pass. An `n` of `2^(LW+1)` or more is
in no frame; the micro-operation itself computes its length without wrap (R8; log 17). -/
def execHashreq (n : Nat) (data : Bytes) (s : State) : Host.Outcome State Fault Refusal :=
  if s.inst.requestLengthFits n then
    if n = data.length ∧ 1 ≤ n ∧ requestToSend s = some data then sendByPhase s
    else .refused .frameNotSent
  else .refused .lengthNotExpressible

/-- What the phase does with a delivered digest (R101). -/
def storeByPhase (p : Phase) (g : Bytes) (s : State) : Host.Outcome State Fault Refusal :=
  match p with
  | .keyhashWait => .next (storeKeyDigest g s)
  | .innerWait => .next (storeInnerDigest g s)
  | .outerWait => .next (storeTag g s)
  | _ => .refused .notSelected

/-- HASHRSP (R53, R101): delivery of a frame is the step of KEYHASH.RSP, INNER.RSP or OUTER.RSP
according to PHASE. A frame outside the contract has no meaning (R98, R105). -/
def execHashrsp (g : Bytes) (s : State) : Host.Outcome State Fault Refusal :=
  match s.hreq with
  | none => .refused .noRequestOutstanding
  | some q =>
    if g.length ≠ s.inst.H then .refused .malformedResponse
    else if g ≠ hashOf s.inst q then .refused .answerNotOfCapability
    else storeByPhase s.phase g (s.setHreq none)

end Sys2Proof.Machine
end

