-- ==== Sys2Proof/Machine/InnerHash.lean ====
section
/-! DEFINITION. Step 3, inner hash (43_inner_hash.md). -/

namespace Sys2Proof.Machine

/-- INNER.REQ (R85). -/
def execInnerReq (s : State) : Host.Outcome State Fault Refusal :=
  if s.phase = .inner then sendInner s else .refused .notSelected

/-- INNER.RSP (R87). -/
def execInnerRsp (s : State) : Host.Outcome State Fault Refusal :=
  if s.phase = .innerWait then hashResponse storeInnerDigest s else .refused .notSelected

end Sys2Proof.Machine
end

