-- ==== Sys2Proof/Machine/KeyNorm.lean ====
section
/-! DEFINITION. Step 1, key normalisation (41_key_normalization.md). -/

namespace Sys2Proof.Machine

/-- KEYNORM.LONG (R71). -/
def execKeynormLong (s : State) : Host.Outcome State Fault Refusal :=
  if s.phase = .keynorm ∧ s.inst.B < s.klen then sendKey s else .refused .notSelected

/-- KEYNORM.SHORT (R73). -/
def execKeynormShort (s : State) : Host.Outcome State Fault Refusal :=
  if s.phase = .keynorm ∧ s.klen < s.inst.B then
    .next ((s.setK0 (padRight s.inst.B s.keyBytes)).setPhase .pads)
  else .refused .notSelected

/-- KEYNORM.EQUAL (R74). -/
def execKeynormEqual (s : State) : Host.Outcome State Fault Refusal :=
  if s.phase = .keynorm ∧ s.klen = s.inst.B then
    .next ((s.setK0 (s.memRead .key 0 s.inst.B)).setPhase .pads)
  else .refused .notSelected

/-- KEYHASH.RSP (R72). -/
def execKeyhashRsp (s : State) : Host.Outcome State Fault Refusal :=
  if s.phase = .keyhashWait then hashResponse storeKeyDigest s else .refused .notSelected

end Sys2Proof.Machine
end

