-- ==== Sys2Proof/Machine/OuterHash.lean ====
section
/-! DEFINITION. Steps 4 and 5, outer hash, return of the tag, zeroisation
(44_outer_hash_and_return.md). -/

namespace Sys2Proof.Machine

/-- OUTER.REQ (R90). -/
def execOuterReq (s : State) : Host.Outcome State Fault Refusal :=
  if s.phase = .outer then sendOuter s else .refused .notSelected

/-- OUTER.RSP (R91 to R93). -/
def execOuterRsp (s : State) : Host.Outcome State Fault Refusal :=
  if s.phase = .outerWait then hashResponse storeTag s else .refused .notSelected

end Sys2Proof.Machine
end

