-- ==== Sys2Proof/Machine/Pads.lean ====
section
/-! DEFINITION. Step 2, pad construction (42_pad_construction.md). -/

namespace Sys2Proof.Machine

/-- PADS (R80): both pads, position by position, from `K0`. -/
def execPads (s : State) : Host.Outcome State Fault Refusal :=
  if s.phase = .pads then
    .next ((s.setPads (xorEach ipadByte s.k0) (xorEach opadByte s.k0)).setPhase .inner)
  else .refused .notSelected

end Sys2Proof.Machine
end

