-- ==== Sys2Proof/Machine/ResetSignal.lean ====
section
/-! DEFINITION. The reset signal (70_reset_and_hazards.md section 1). -/

namespace Sys2Proof.Machine

/-- RESET (R130): the reset state in one step, in any phase. -/
def execReset (s : State) : Host.Outcome State Fault Refusal := .next s.engineReset

end Sys2Proof.Machine
end

