-- ==== Sys2Proof/Machine/Dispatch.lean ====
section
/-! DEFINITION. One arm per row of the opcode table. -/

namespace Sys2Proof.Machine

def exec (i : Instr) (s : State) : Host.Outcome State Fault Refusal :=
  match i with
  | .compute klen mlen => Sys2Proof.Machine.execCompute klen mlen s
  | .keynormLong => Sys2Proof.Machine.execKeynormLong s
  | .keynormShort => Sys2Proof.Machine.execKeynormShort s
  | .keynormEqual => Sys2Proof.Machine.execKeynormEqual s
  | .keyhashRsp => Sys2Proof.Machine.execKeyhashRsp s
  | .pads => Sys2Proof.Machine.execPads s
  | .innerReq => Sys2Proof.Machine.execInnerReq s
  | .innerRsp => Sys2Proof.Machine.execInnerRsp s
  | .outerReq => Sys2Proof.Machine.execOuterReq s
  | .outerRsp => Sys2Proof.Machine.execOuterRsp s
  | .hashreq n data => Sys2Proof.Machine.execHashreq n data s
  | .hashrsp digest => Sys2Proof.Machine.execHashrsp digest s
  | .reset => Sys2Proof.Machine.execReset s

end Sys2Proof.Machine
end

