-- ==== Sys2Proof/Machine/Fetch.lean ====
section
/-! DEFINITION. How the next step is chosen: the oldest move to come, and the instruction it runs
(R13, R59; log 3). The engine has no instruction memory; PHASE selects (R11). -/

namespace Sys2Proof.Machine

/-- The move whose turn it is; with none scheduled, the agent PHASE names (log 3). -/
def nextEvent (s : State) : Event :=
  match s.events with
  | [] => .advance
  | e :: _ => e

/-- The state with that move taken off the list. -/
def afterEvent (s : State) : State := s.setEvents s.events.tail

/-- The instruction a move runs in a state, if it runs one. A descriptor is decoded (R46); a reserved
`op` runs nothing (R47). PHASE with `KLEN` against `B` selects the micro-operation (R59). -/
def eventInstr (e : Event) (s : State) : Option Instr :=
  match e with
  | .advance => (decode s.inst s.klenCmp (.selector (phaseCode s.phase))).toOption
  | .respond g => some (.hashrsp g)
  | .command d => (decodeDescriptor d).toOption
  | .reset => some .reset
  | .place _ _ _ => none
  | .readStatus => none
  | .readTag _ => none
  | .pass => none

/-- The effect of a move that runs no instruction. Reads have no side effect (R23, R92); a descriptor
with a reserved `op` changes no state (R47); in IDLE, DONE, FAILED and DEAD no agent has a step (R13). -/
def moveWithoutInstr (e : Event) (s : State) : Host.Outcome State Fault Refusal :=
  match e with
  | .place sp i bs =>
    if s.busy && decide (i < s.borrowed sp) && decide (bs ≠ []) then .refused .borrowedByteWritten
    else .next (s.placeBytes sp i bs)
  | .readTag i => if i < s.inst.H then .next s else .fault (.noSuchTagByte i)
  | .advance => .next s
  | .respond _ => .next s
  | .command _ => .next s
  | .reset => .next s
  | .readStatus => .next s
  | .pass => .next s

/-- A state in which `i` is what the very next step runs (log 16): the event that brings it first in
line, and for a micro-operation the phase that selects it, with the request its response step needs. -/
def State.arrange (s : State) (i : Instr) : State :=
  match i with
  | .compute klen mlen =>
    s.setEvents (.command { op := computeOp, klen := klen, mlen := mlen } :: s.events)
  | .keynormLong => ((s.setPhase .keynorm).setLens (s.inst.B + 1) s.mlen).setEvents (.advance :: s.events)
  | .keynormShort => ((s.setPhase .keynorm).setLens 0 s.mlen).setEvents (.advance :: s.events)
  | .keynormEqual => ((s.setPhase .keynorm).setLens s.inst.B s.mlen).setEvents (.advance :: s.events)
  | .keyhashRsp =>
    ((s.setPhase .keyhashWait).setHreq (some s.keyBytes)).setEvents (.advance :: s.events)
  | .pads => (s.setPhase .pads).setEvents (.advance :: s.events)
  | .innerReq => (s.setPhase .inner).setEvents (.advance :: s.events)
  | .innerRsp => ((s.setPhase .innerWait).setHreq (some s.cat1)).setEvents (.advance :: s.events)
  | .outerReq => (s.setPhase .outer).setEvents (.advance :: s.events)
  | .outerRsp => ((s.setPhase .outerWait).setHreq (some s.cat2)).setEvents (.advance :: s.events)
  | .hashreq _ _ => s.setEvents (.advance :: s.events)
  | .hashrsp g => s.setEvents (.respond g :: s.events)
  | .reset => s.setEvents (.reset :: s.events)

end Sys2Proof.Machine
end

