-- ==== Sys2Proof/Machine/Step.lean ====
section
/-! DEFINITION. One step of the machine: the next move, and the instruction it runs if it runs one. -/

namespace Sys2Proof.Machine

/-- One atomic step (R12, R13). An instance outside the parameter domain has none (R5). -/
def step (s : State) : Host.Outcome State Fault Refusal :=
  if s.inst.wf then
    match eventInstr (nextEvent s) (afterEvent s) with
    | some i => exec i (afterEvent s)
    | none => moveWithoutInstr (nextEvent s) (afterEvent s)
  else .refused .noSuchInstance

/-- The state in which the very next step runs the instruction of a word of the opcode table (log 16). -/
def State.withFetchWord (s : State) (nbits w : Nat) : State :=
  match decodeTableWord nbits w with
  | some i => s.arrange i
  | none => s

end Sys2Proof.Machine
end

