-- ==== Sys2Proof/Machine/Reference.lean ====
section
/-! DEFINITION. The reference function of R9, for claims about the value of the tag. No meaning uses it. -/

namespace Sys2Proof.Machine

/-- `K0` of R9 and R75. -/
def blockSizedKey (c : Inst) (key : Bytes) : Bytes :=
  if c.B < key.length then hashOf c key ++ zeros (c.B - c.H)
  else if key.length < c.B then key ++ zeros (c.B - key.length)
  else key

/-- `IP ∥ msg` of R9: the inner request. -/
def innerRequest (c : Inst) (key msg : Bytes) : Bytes :=
  List.zipWith (· ^^^ ·) (blockSizedKey c key) (rep 0x36 c.B) ++ msg

/-- `OP ∥ hash(IP ∥ msg)` of R9: the outer request. -/
def outerRequest (c : Inst) (key msg : Bytes) : Bytes :=
  List.zipWith (· ^^^ ·) (blockSizedKey c key) (rep 0x5c c.B) ++ hashOf c (innerRequest c key msg)

/-- `HMAC(key, msg)` (R9). -/
def hmac (c : Inst) (key msg : Bytes) : Bytes := hashOf c (outerRequest c key msg)

end Sys2Proof.Machine
end

