-- ==== Sys2Proof/Safety.lean ====
section
/-! DEFINITION. What claims speak of: the invariant of the engine, the values an invocation carries in
each phase, what a frame leaves alone, what the HOST sees, and the transition table of R13. -/

namespace Sys2Proof.Machine

/-- Every working buffer and working register is zero (R93). -/
structure State.Zeroed (s : State) : Prop where
  k0 : s.k0 = zeros s.inst.B
  ipadb : s.ipadb = zeros s.inst.B
  opadb : s.opadb = zeros s.inst.B
  cat1 : s.cat1 = []
  cat2 : s.cat2 = zeros (s.inst.B + s.inst.H)
  idig : s.idig = zeros s.inst.H
  klen : s.klen = 0
  mlen : s.mlen = 0

/-- The phases in which CAT1 is in use (R16, R85, R93). -/
def phaseHoldsCat1 : Phase → Bool
  | .innerWait => true
  | .outer => true
  | .outerWait => true
  | _ => false

/-- The invariant of the engine: true at reset, kept by every step. -/
structure State.Inv (s : State) : Prop where
  /-- K0, IPADB, OPADB have B bytes, CAT2 has B + H, IDIG and TAG have H (R14 to R19, R38). -/
  sizes : s.k0.length = s.inst.B ∧ s.ipadb.length = s.inst.B ∧ s.opadb.length = s.inst.B ∧
    s.cat2.length = s.inst.B + s.inst.H ∧ s.idig.length = s.inst.H ∧ s.tag.length = s.inst.H
  /-- CAT1 has B + MLEN bytes in use once written, none otherwise (R16). -/
  cat1Size : s.cat1.length = if phaseHoldsCat1 s.phase then s.inst.B + s.mlen else 0
  /-- KLEN and MLEN fit their LW bits (R20). -/
  lengths : s.inst.lengthFits s.klen = true ∧ s.inst.lengthFits s.mlen = true
  /-- The flags follow PHASE (R22). -/
  flags : (s.tagv = true ↔ s.phase = .done) ∧
    (s.err = .allocationFailure ↔ s.phase = .failed) ∧
    (s.err = .invalidHashParameters ↔ s.phase = .dead)
  /-- A request is outstanding exactly in the wait phases (R25). -/
  request : s.hreq.isSome = phaseWaits s.phase
  /-- DEAD exactly in an instance with H > B (R110, R132). -/
  dead : s.phase = .dead ↔ s.inst.B < s.inst.H
  /-- Not busy means zeroised (R93). -/
  idleZero : s.busy = false → s.Zeroed
  /-- TAG is zero while TAGV = 0 (R19). -/
  tagClear : s.tagv = false → s.tag = zeros s.inst.H
  /-- An invocation in progress fits the capacity (R62, R111). -/
  capacity : s.busy = true → capacityExceeded s.inst s.mlen = false
  /-- The caller spaces are in canonical form. -/
  memory : Memory.wf s.keyMem = true ∧ Memory.wf s.msgMem = true

/-- What the buffers hold in each phase of an invocation, in terms of the key and the message and the
values R9 names (R63, R75). -/
def State.Carries (s : State) : Prop :=
  match s.phase with
  | .keyhashWait => s.inst.B < s.klen ∧ s.hreq = some s.keyBytes
  | .pads => s.k0 = blockSizedKey s.inst s.keyBytes
  | .inner =>
    s.ipadb = List.zipWith (· ^^^ ·) (blockSizedKey s.inst s.keyBytes) (rep 0x36 s.inst.B) ∧
    s.opadb = List.zipWith (· ^^^ ·) (blockSizedKey s.inst s.keyBytes) (rep 0x5c s.inst.B)
  | .innerWait =>
    s.hreq = some (innerRequest s.inst s.keyBytes s.msgBytes) ∧
    s.opadb = List.zipWith (· ^^^ ·) (blockSizedKey s.inst s.keyBytes) (rep 0x5c s.inst.B)
  | .outer => s.opadb ++ s.idig = outerRequest s.inst s.keyBytes s.msgBytes
  | .outerWait => s.hreq = some (outerRequest s.inst s.keyBytes s.msgBytes)
  | _ => True

/-- No byte of either caller space differs between two states. -/
def SameMemory (s t : State) : Prop :=
  ∀ (sp : Space) (i : Nat), t.readByte sp i = s.readByte sp i

/-- What the HOST can see of the engine: STATUS and TAG (R23, R27, R54). -/
def State.hostView (s : State) : BitVec 8 × Bytes := (s.status, s.tag)

/-- Two states that agree on all but the working buffers, the content of the outstanding request and
the caller's bytes: the key-derived secrets (R27). -/
structure SameButSecrets (s t : State) : Prop where
  inst : t.inst = s.inst
  phase : t.phase = s.phase
  err : t.err = s.err
  tagv : t.tagv = s.tagv
  klen : t.klen = s.klen
  mlen : t.mlen = s.mlen
  tag : t.tag = s.tag
  hreq : t.hreq.isSome = s.hreq.isSome
  events : t.events = s.events

/-- The rows of the transition table that are no reset (R13). -/
def phaseStep : Phase → Phase → Bool
  | .idle, .keynorm => true
  | .done, .keynorm => true
  | .failed, .keynorm => true
  | .idle, .failed => true
  | .done, .failed => true
  | .failed, .failed => true
  | .dead, .dead => true
  | .keynorm, .keyhashWait => true
  | .keynorm, .pads => true
  | .keyhashWait, .pads => true
  | .pads, .inner => true
  | .inner, .innerWait => true
  | .innerWait, .outer => true
  | .outer, .outerWait => true
  | .outerWait, .done => true
  | _, _ => false

end Sys2Proof.Machine
end

