-- ==== Sys2Proof/Certificates/Slice0/Obligations.lean ====
section
/-! DEFINITION. The statements for the provers. A frame is written as an equation: the next state is
the old one but for the fields named; that no byte of a caller space changed is said through the
model's read of one byte (`SameMemory`). -/

open Sys2Proof Sys2Proof.Machine

/-! ### Encodings -/

/-- R50, R51: the codes of PHASE and ERR; 11 to 15 and 3 are reserved and never produced. -/
def Obligations.PhaseAndErrCodes : Prop :=
  (phaseCode .idle = 0 ∧ phaseCode .keynorm = 1 ∧ phaseCode .keyhashWait = 2 ∧ phaseCode .pads = 3 ∧
    phaseCode .inner = 4 ∧ phaseCode .innerWait = 5 ∧ phaseCode .outer = 6 ∧
    phaseCode .outerWait = 7 ∧ phaseCode .done = 8 ∧ phaseCode .failed = 9 ∧ phaseCode .dead = 10) ∧
  (∀ p : Phase, phaseOfCode (phaseCode p) = some p ∧ (phaseCode p).toNat ≤ 10) ∧
  (∀ c : BitVec 4, 11 ≤ c.toNat → phaseOfCode c = none) ∧
  (errCode .noError = 0 ∧ errCode .invalidHashParameters = 1 ∧ errCode .allocationFailure = 2) ∧
  (∀ e : ErrCode, errOfCode (errCode e) = some e ∧ (errCode e).toNat ≤ 2) ∧
  errOfCode 3 = none

/-- 95_test_vectors.md section 5: the descriptors of programs A to E, and the micro-operation selectors
of R59, read as the spec writes them (`decodeTableWord`: log 16). -/
def Obligations.WordsOfTheSpecDecode : Prop :=
  decodeCmdWord 8 0x010101 = .ok (.compute 1 1) ∧
  decodeCmdWord 8 0x050901 = .ok (.compute 9 5) ∧
  decodeCmdWord 8 0x145001 = .ok (.compute 80 20) ∧
  decodeCmdWord 8 0x000007 = .error (.reservedOp 0x07) ∧
  decodeTableWord 24 0x090101 = some (.compute 1 9) ∧
  decodeTableWord 8 0x05 = some .innerRsp ∧
  ∀ c : Inst,
    decode c .gt (.selector 1) = .ok .keynormLong ∧ decode c .lt (.selector 1) = .ok .keynormShort ∧
    decode c .eq (.selector 1) = .ok .keynormEqual ∧ decode c .lt (.selector 2) = .ok .keyhashRsp ∧
    decode c .lt (.selector 3) = .ok .pads ∧ decode c .lt (.selector 4) = .ok .innerReq ∧
    decode c .lt (.selector 6) = .ok .outerReq ∧ decode c .lt (.selector 7) = .ok .outerRsp ∧
    decode c .lt (.selector 12) = .error (.reservedPhase 12)

/-- R45: the fields of a CMD word of `8 + 2*LW` bits are its bit ranges 7 to 0, 8 + LW - 1 to 8,
8 + 2*LW - 1 to 8 + LW. -/
def Obligations.CmdFieldsAreBitRanges : Prop :=
  ∀ lw w : Nat, w < 2 ^ (8 + 2 * lw) →
    ∃ d, unpackCmd lw w = .ok d ∧
      (∀ j < 8, d.op.getLsbD j = w.testBit j) ∧
      (∀ j, d.klen.testBit j = (decide (j < lw) && w.testBit (8 + j))) ∧
      (∀ j, d.mlen.testBit j = (decide (j < lw) && w.testBit (8 + lw + j)))

/-- R46, R47: a CMD word that decodes is COMPUTE, its low byte is 0x01, and its lengths are the free
fields; no two words have one meaning. -/
def Obligations.CmdWordsHaveOneMeaning : Prop :=
  ∀ (lw w : Nat) (i : Instr), decodeCmdWord lw w = .ok i →
    ∃ klen mlen, i = .compute klen mlen ∧ klen < 2 ^ lw ∧ mlen < 2 ^ lw ∧
      w = 1 + 2 ^ 8 * klen + 2 ^ (8 + lw) * mlen

/-- Decoding undoes encoding for every instruction its format can carry, and on the packed CMD word for
every width of the length fields. -/
def Obligations.DecodeUndoesEncode : Prop :=
  (∀ (c : Inst) (cmp : Ordering) (i : Instr), i.wf c = true → selectedUnder i cmp = true →
    decode c cmp (encode i) = .ok i) ∧
  (∀ lw klen mlen : Nat, klen < 2 ^ lw → mlen < 2 ^ lw →
    decodeCmdWord lw (computeWord lw klen mlen) = .ok (.compute klen mlen))

/-- R52, R53, R100: a request frame is its exact length, of `LW + 1` bits (R52) and 1 or more (R100), then
exactly that many bytes; a response frame is exactly `H` bytes (R53); every other frame is refused by
name, one with a length of `2^(LW+1)` or more as log 17 deduces. -/
def Obligations.HashFramesAreExact : Prop :=
  ∀ (c : Inst) (cmp : Ordering),
    (∀ (n : Nat) (data : Bytes),
      (decode c cmp (.requestFrame n data) = .ok (.hashreq n data) ↔
        n = data.length ∧ 1 ≤ n ∧ ∀ w, c.lw = some w → n < 2 ^ (w + 1)) ∧
      (n ≠ data.length ∨ n = 0 →
        decode c cmp (.requestFrame n data) = .error .badRequestLength) ∧
      (∀ w, n = data.length → 1 ≤ n → c.lw = some w → 2 ^ (w + 1) ≤ n →
        decode c cmp (.requestFrame n data) = .error .requestLengthNotExpressible)) ∧
    (∀ digest : Bytes,
      (digest.length = c.H → decode c cmp (.responseFrame digest) = .ok (.hashrsp digest)) ∧
      (digest.length ≠ c.H → decode c cmp (.responseFrame digest) = .error .badResponseLength))

/-! ### The step and the moves that run no instruction -/

/-- R12, R13, R59: what a step runs, by the oldest move on the list, which it takes off and changes
nothing else for: reset, a delivered response, a presented command, or the micro-operation the phase
selects (`advance`, or no move scheduled). The list of moves is the model's own (log 3); the moves that
run no instruction are the subject of the next statements. -/
def Obligations.StepRunsTheSelectedInstruction : Prop :=
  ∀ (s : State) (es : List Event), s.inst.wf = true →
    (s.events = .reset :: es → step s = exec .reset { s with events := es }) ∧
    (∀ g, s.events = .respond g :: es → step s = exec (.hashrsp g) { s with events := es }) ∧
    (∀ d, s.events = .command d :: es → d.op = 0x01 →
      step s = exec (.compute d.klen d.mlen) { s with events := es }) ∧
    (s.events = .advance :: es ∨ (s.events = [] ∧ es = []) →
      (s.phase = .keynorm → s.inst.B < s.klen → step s = exec .keynormLong { s with events := es }) ∧
      (s.phase = .keynorm → s.klen < s.inst.B → step s = exec .keynormShort { s with events := es }) ∧
      (s.phase = .keynorm → s.klen = s.inst.B → step s = exec .keynormEqual { s with events := es }) ∧
      (s.phase = .keyhashWait → step s = exec .keyhashRsp { s with events := es }) ∧
      (s.phase = .pads → step s = exec .pads { s with events := es }) ∧
      (s.phase = .inner → step s = exec .innerReq { s with events := es }) ∧
      (s.phase = .innerWait → step s = exec .innerRsp { s with events := es }) ∧
      (s.phase = .outer → step s = exec .outerReq { s with events := es }) ∧
      (s.phase = .outerWait → step s = exec .outerRsp { s with events := es }) ∧
      (s.phase = .idle ∨ s.phase = .done ∨ s.phase = .failed ∨ s.phase = .dead →
        step s = .next { s with events := es }))

/-- R59, R70, R13: what PHASE, and in KEYNORM the comparison of KLEN with B, select on the model's move
`advance` (log 3), which in a wait phase stands for the delivered response. -/
def Obligations.SelectorsOfMicroOperations : Prop :=
  ∀ s : State,
    (s.phase = .keynorm → s.inst.B < s.klen → eventInstr .advance s = some .keynormLong) ∧
    (s.phase = .keynorm → s.klen < s.inst.B → eventInstr .advance s = some .keynormShort) ∧
    (s.phase = .keynorm → s.klen = s.inst.B → eventInstr .advance s = some .keynormEqual) ∧
    (s.phase = .keyhashWait → eventInstr .advance s = some .keyhashRsp) ∧
    (s.phase = .pads → eventInstr .advance s = some .pads) ∧
    (s.phase = .inner → eventInstr .advance s = some .innerReq) ∧
    (s.phase = .innerWait → eventInstr .advance s = some .innerRsp) ∧
    (s.phase = .outer → eventInstr .advance s = some .outerReq) ∧
    (s.phase = .outerWait → eventInstr .advance s = some .outerRsp) ∧
    (s.phase = .idle ∨ s.phase = .done ∨ s.phase = .failed ∨ s.phase = .dead →
      eventInstr .advance s = none)

/-- R131, R92: with no move to come the engine waits in IDLE, DONE, FAILED and DEAD, unchanged; in any
phase, time passing changes nothing (R104: an unanswered request leaves the engine where it is). The
move `pass` and the empty list as `advance` are the model's (log 3). -/
def Obligations.EngineWaitsUnchanged : Prop :=
  (∀ s : State, s.inst.wf = true → s.events = [] →
    (s.phase = .idle ∨ s.phase = .done ∨ s.phase = .failed ∨ s.phase = .dead) →
    step s = .next s) ∧
  (∀ (s : State) (es : List Event), s.inst.wf = true → s.events = .pass :: es →
    step s = .next { s with events := es })

/-- R23, R54, R92: reading STATUS or TAG has no side effect, and TAG has the indices 0 to H - 1; that the
model faults on another index is its own choice (log 20). -/
def Obligations.HostReadsChangeNothing : Prop :=
  ∀ (s : State) (es : List Event), s.inst.wf = true →
    (s.events = .readStatus :: es → step s = .next { s with events := es }) ∧
    (∀ i, s.events = .readTag i :: es → i < s.inst.H →
      step s = .next { s with events := es } ∧ s.readTag i = some (s.tag.getD i 0)) ∧
    (∀ i, s.events = .readTag i :: es → s.inst.H ≤ i →
      step s = .fault (.noSuchTagByte i) ∧ s.readTag i = none)

/-- R33, R39: the HOST's bytes stand where it placed them, every other byte stays, the engine does not
change; a borrowed byte of a running invocation cannot be written (the model refuses the move, log 7). -/
def Obligations.HostPlacesBytes : Prop :=
  ∀ (s : State) (sp : Space) (i : Nat) (bs : Bytes) (es : List Event),
    s.inst.wf = true → s.events = .place sp i bs :: es →
    (s.busy = false ∨ s.borrowed sp ≤ i →
      ∃ t, step s = .next t ∧
        t = { s with events := es, keyMem := t.keyMem, msgMem := t.msgMem } ∧
        (∀ j < bs.length, t.readByte sp (i + j) = bs[j]?) ∧
        (∀ j, j < i ∨ i + bs.length ≤ j → t.readByte sp j = s.readByte sp j) ∧
        (∀ sp' j, sp' ≠ sp → t.readByte sp' j = s.readByte sp' j)) ∧
    (s.busy = true → i < s.borrowed sp → bs ≠ [] → step s = .refused .borrowedByteWritten)

/-- R47: a descriptor with a reserved `op` changes no state, whatever the phase. -/
def Obligations.ReservedOpIsIgnored : Prop :=
  ∀ d : Descriptor, d.op ≠ 0x01 →
    decodeDescriptor d = .error (.reservedOp d.op) ∧
    ∀ (s : State) (es : List Event), s.inst.wf = true → s.events = .command d :: es →
      step s = .next { s with events := es }

/-! ### COMPUTE -/

/-- R62, R111, R113: acceptance in a ready phase discards the previous tag; if `B + mlen` fits the
capacity the invocation starts, if not the failure exit AllocationFailure is taken. -/
def Obligations.ComputeIsAcceptedWhenReady : Prop :=
  ∀ (s : State) (klen mlen : Nat),
    (s.phase = .idle ∨ s.phase = .done ∨ s.phase = .failed) →
    (∀ w, s.inst.lw = some w → klen < 2 ^ w ∧ mlen < 2 ^ w) →
    ((∀ cap, s.inst.catCap = some cap → s.inst.B + mlen ≤ cap) →
      ∃ t, exec (.compute klen mlen) s = .next t ∧
        t.tag.length = s.inst.H ∧ (∀ i < s.inst.H, t.tag[i]? = some 0) ∧ t.tagv = false ∧
        t.err = .noError ∧ t.klen = klen ∧ t.mlen = mlen ∧ t.phase = .keynorm ∧
        t = { s with tag := t.tag, tagv := t.tagv, err := t.err, klen := t.klen, mlen := t.mlen,
                     phase := t.phase } ∧
        SameMemory s t) ∧
    (∀ cap, s.inst.catCap = some cap → cap < s.inst.B + mlen →
      ∃ t, exec (.compute klen mlen) s = .next t ∧
        t.tag.length = s.inst.H ∧ (∀ i < s.inst.H, t.tag[i]? = some 0) ∧ t.tagv = false ∧
        t.err = .allocationFailure ∧ t.phase = .failed ∧ t.status = 0x29 ∧ t.Zeroed ∧
        t.inst = s.inst ∧ t.hreq = s.hreq ∧ t.events = s.events ∧ SameMemory s t)

/-- R61, R68: a command presented while busy has no effect; on a DEAD instance it is accepted and fails
with InvalidHashParameters, no state changing, whatever the lengths. -/
def Obligations.ComputeBusyOrDeadChangesNothing : Prop :=
  ∀ (s : State) (klen mlen : Nat),
    (∀ w, s.inst.lw = some w → klen < 2 ^ w ∧ mlen < 2 ^ w) →
    (1 ≤ (phaseCode s.phase).toNat → (phaseCode s.phase).toNat ≤ 7 →
      exec (.compute klen mlen) s = .next s) ∧
    (s.phase = .dead → exec (.compute klen mlen) s = .next s ∧
      (s.err = .invalidHashParameters → s.tagv = false → s.status = 0x1A))

/-- R116: after AllocationFailure the engine, with no move to come (log 3), stays as it is and does not
repeat the command on its own; the command presented again fails in the same way, and leaves the same
state; a command that fits is accepted from FAILED and clears ERR. -/
def Obligations.AllocationFailureIsNotRetried : Prop :=
  ∀ (s t : State) (klen mlen : Nat), phaseReady s.phase = true →
    exec (.compute klen mlen) s = .next t → t.phase = .failed →
    (s.inst.wf = true → s.events = [] → step t = .next t) ∧
    exec (.compute klen mlen) t = .next t ∧
    ∀ m, m ≤ mlen → s.inst.B + m ≤ s.inst.catCap.getD (s.inst.B + m) →
      ∃ u, exec (.compute klen m) t = .next u ∧ u.phase = .keynorm ∧ u.err = .noError

/-! ### Key normalisation -/

/-- R71: KEYNORM.LONG sends the whole key, with its exact length. -/
def Obligations.KeynormLongSendsTheKey : Prop :=
  ∀ s : State, s.phase = .keynorm → s.inst.B < s.klen → s.hreq = none →
    ∃ t q, exec .keynormLong s = .next t ∧ t.hreq = some q ∧ q.length = s.klen ∧
      (∀ i < s.klen, q[i]? = some (s.byteAt .key i)) ∧ t.phase = .keyhashWait ∧
      t = { s with hreq := t.hreq, phase := t.phase } ∧ SameMemory s t

/-- R72: KEYHASH.RSP puts the digest, then zeros, into K0. -/
def Obligations.KeyhashRspFillsK0 : Prop :=
  ∀ (s : State) (q : Bytes), s.phase = .keyhashWait → s.hreq = some q → s.inst.H ≤ s.inst.B →
    ∃ t, exec .keyhashRsp s = .next t ∧ t.k0.length = s.inst.B ∧
      (∀ i < s.inst.H, t.k0[i]? = (hashOf s.inst q)[i]?) ∧
      (∀ i, s.inst.H ≤ i → i < s.inst.B → t.k0[i]? = some 0) ∧
      t.hreq = none ∧ t.phase = .pads ∧
      t = { s with k0 := t.k0, hreq := t.hreq, phase := t.phase } ∧ SameMemory s t

/-- R73: KEYNORM.SHORT puts the key, then zeros, into K0. -/
def Obligations.KeynormShortPadsTheKey : Prop :=
  ∀ s : State, s.phase = .keynorm → s.klen < s.inst.B →
    ∃ t, exec .keynormShort s = .next t ∧ t.k0.length = s.inst.B ∧
      (∀ i < s.klen, t.k0[i]? = some (s.byteAt .key i)) ∧
      (∀ i, s.klen ≤ i → i < s.inst.B → t.k0[i]? = some 0) ∧
      t.phase = .pads ∧ t = { s with k0 := t.k0, phase := t.phase } ∧ SameMemory s t

/-- R74: KEYNORM.EQUAL copies the key into K0. -/
def Obligations.KeynormEqualCopiesTheKey : Prop :=
  ∀ s : State, s.phase = .keynorm → s.klen = s.inst.B →
    ∃ t, exec .keynormEqual s = .next t ∧ t.k0.length = s.inst.B ∧
      (∀ i < s.inst.B, t.k0[i]? = some (s.byteAt .key i)) ∧
      t.phase = .pads ∧ t = { s with k0 := t.k0, phase := t.phase } ∧ SameMemory s t

/-- R70: in KEYNORM exactly one of the three forms runs; the other two are refused, which is the
model's way of not giving the engine that move (log 12). -/
def Obligations.KeynormFormsExcludeOneAnother : Prop :=
  ∀ s : State, s.phase = .keynorm → s.hreq = none →
    (s.inst.B < s.klen → (∃ t, exec .keynormLong s = .next t) ∧
      exec .keynormShort s = .refused .notSelected ∧ exec .keynormEqual s = .refused .notSelected) ∧
    (s.klen < s.inst.B → (∃ t, exec .keynormShort s = .next t) ∧
      exec .keynormLong s = .refused .notSelected ∧ exec .keynormEqual s = .refused .notSelected) ∧
    (s.klen = s.inst.B → (∃ t, exec .keynormEqual s = .next t) ∧
      exec .keynormLong s = .refused .notSelected ∧ exec .keynormShort s = .refused .notSelected)

/-- R75: when PHASE becomes PADS, K0 has exactly B bytes and the value of the key's branch. -/
def Obligations.KeyNormalisationPostcondition : Prop :=
  ∀ s t : State, s.Inv → s.Carries → step s = .next t → s.phase ≠ .pads → t.phase = .pads →
    t.k0.length = s.inst.B ∧
    (s.inst.B < s.klen →
      t.k0 = hashOf s.inst s.keyBytes ++ List.replicate (s.inst.B - s.inst.H) 0) ∧
    (s.klen < s.inst.B → t.k0 = s.keyBytes ++ List.replicate (s.inst.B - s.klen) 0) ∧
    (s.klen = s.inst.B → t.k0 = s.keyBytes)

/-! ### Pads -/

/-- R80: every byte of K0 XOR 0x36 and XOR 0x5c; K0 itself and all else unchanged. -/
def Obligations.PadsXorEveryByte : Prop :=
  ∀ s : State, s.phase = .pads → s.k0.length = s.inst.B →
    ∃ t, exec .pads s = .next t ∧
      t.ipadb.length = s.inst.B ∧ t.opadb.length = s.inst.B ∧
      (∀ i < s.inst.B, t.ipadb[i]? = s.k0[i]?.map (· ^^^ 0x36) ∧
        t.opadb[i]? = s.k0[i]?.map (· ^^^ 0x5c)) ∧
      t.phase = .inner ∧
      t = { s with ipadb := t.ipadb, opadb := t.opadb, phase := t.phase } ∧ SameMemory s t

/-- R81: the two pads differ by 0x6a in every position, whatever the key, and K0 can be read back. -/
def Obligations.PadsDifferBy6aEverywhere : Prop :=
  ∀ s t : State, exec .pads s = .next t →
    t.ipadb.length = s.k0.length ∧ t.opadb.length = s.k0.length ∧
    ∀ (i : Nat) (x y : Byte), t.ipadb[i]? = some x → t.opadb[i]? = some y →
      x ^^^ y = 0x6a ∧ x ≠ y ∧ s.k0[i]? = some (x ^^^ 0x36)

/-! ### Inner and outer hash -/

/-- R85, R86: INNER.REQ sends the inner pad, then the message, with the exact length B + MLEN. -/
def Obligations.InnerReqSendsPadThenMessage : Prop :=
  ∀ s : State, s.phase = .inner → s.hreq = none → s.ipadb.length = s.inst.B →
    ∃ t, exec .innerReq s = .next t ∧ t.cat1.length = s.inst.B + s.mlen ∧
      (∀ i < s.inst.B, t.cat1[i]? = s.ipadb[i]?) ∧
      (∀ i < s.mlen, t.cat1[s.inst.B + i]? = some (s.byteAt .msg i)) ∧
      t.hreq = some t.cat1 ∧ t.phase = .innerWait ∧
      t = { s with cat1 := t.cat1, hreq := t.hreq, phase := t.phase } ∧ SameMemory s t

/-- R87: INNER.RSP takes the digest into IDIG. -/
def Obligations.InnerRspTakesTheDigest : Prop :=
  ∀ (s : State) (q : Bytes), s.phase = .innerWait → s.hreq = some q →
    ∃ t, exec .innerRsp s = .next t ∧ t.idig = hashOf s.inst q ∧ t.idig.length = s.inst.H ∧
      t.hreq = none ∧ t.phase = .outer ∧
      t = { s with idig := t.idig, hreq := t.hreq, phase := t.phase } ∧ SameMemory s t

/-- R90: OUTER.REQ sends the outer pad, then the inner digest, with the exact length B + H. -/
def Obligations.OuterReqSendsPadThenDigest : Prop :=
  ∀ s : State, s.phase = .outer → s.hreq = none → s.opadb.length = s.inst.B →
    s.idig.length = s.inst.H →
    ∃ t, exec .outerReq s = .next t ∧ t.cat2.length = s.inst.B + s.inst.H ∧
      (∀ i < s.inst.B, t.cat2[i]? = s.opadb[i]?) ∧
      (∀ i < s.inst.H, t.cat2[s.inst.B + i]? = s.idig[i]?) ∧
      t.hreq = some t.cat2 ∧ t.phase = .outerWait ∧
      t = { s with cat2 := t.cat2, hreq := t.hreq, phase := t.phase } ∧ SameMemory s t

/-- R91, R93: OUTER.RSP delivers the tag and zeroises every working buffer in one step. -/
def Obligations.OuterRspDeliversTagAndZeroises : Prop :=
  ∀ (s : State) (q : Bytes), s.phase = .outerWait → s.hreq = some q →
    ∃ t, exec .outerRsp s = .next t ∧ t.tag = hashOf s.inst q ∧ t.tag.length = s.inst.H ∧
      t.tagv = true ∧ t.Zeroed ∧ t.hreq = none ∧ t.phase = .done ∧ t.err = s.err ∧
      (s.err = .noError → t.status = 0x48) ∧
      t.inst = s.inst ∧ t.events = s.events ∧ SameMemory s t

/-! ### The hash frames -/

/-- R100, R107: a request frame passes in the step of the micro-operation that issues it: the whole
key, the inner concatenation, the outer concatenation (HASHREQ as that transition: log 13). Its length
field has `LW + 1` bits (R52); a frame with a longer one does not exist and is refused (log 17). -/
def Obligations.HashreqPassesInTheIssuingStep : Prop :=
  ∀ s : State, s.hreq = none →
    (s.phase = .keynorm → s.inst.B < s.klen → (∀ w, s.inst.lw = some w → s.klen < 2 ^ (w + 1)) →
      ∃ t, exec (.hashreq s.klen (s.memRead .key 0 s.klen)) s = .next t ∧
        exec .keynormLong s = .next t ∧ t.hreq = some (s.memRead .key 0 s.klen)) ∧
    (s.phase = .inner → s.ipadb.length = s.inst.B → 1 ≤ s.inst.B →
      (∀ w, s.inst.lw = some w → s.inst.B + s.mlen < 2 ^ (w + 1)) →
      ∃ t, exec (.hashreq (s.inst.B + s.mlen) (s.ipadb ++ s.memRead .msg 0 s.mlen)) s = .next t ∧
        exec .innerReq s = .next t ∧ t.hreq = some (s.ipadb ++ s.memRead .msg 0 s.mlen)) ∧
    (s.phase = .outer → s.opadb.length = s.inst.B → s.idig.length = s.inst.H → 1 ≤ s.inst.B →
      (∀ w, s.inst.lw = some w → s.inst.B + s.inst.H < 2 ^ (w + 1)) →
      ∃ t, exec (.hashreq (s.inst.B + s.inst.H) (s.opadb ++ s.idig)) s = .next t ∧
        exec .outerReq s = .next t ∧ t.hreq = some (s.opadb ++ s.idig)) ∧
    (∀ n data w, s.inst.lw = some w → 2 ^ (w + 1) ≤ n →
      exec (.hashreq n data) s = .refused .lengthNotExpressible)

/-- R52, R100, R102: no other request frame passes: its length field is exact, not zero and of `LW + 1`
bits, no request is outstanding, and it is the request of one of the three issuing steps (log 13). -/
def Obligations.HashreqOnlyWhatTheEngineSends : Prop :=
  ∀ (s t : State) (n : Nat) (data : Bytes), exec (.hashreq n data) s = .next t →
    n = data.length ∧ 1 ≤ n ∧ (∀ w, s.inst.lw = some w → n < 2 ^ (w + 1)) ∧
    s.hreq = none ∧ t.hreq = some data ∧
    (exec .keynormLong s = .next t ∨ exec .innerReq s = .next t ∨ exec .outerReq s = .next t)

/-- R69, R107: the requests that can occur, by the step that issues them, with their exact lengths; none
is empty, and where `B` is at most `2^LW` and `B + H` below `2^(LW+1)` each has a length of `LW + 1` bits
(R8, R52; log 17). -/
def Obligations.RequestsThatCanOccur : Prop :=
  ∀ (s t : State) (q : Bytes), s.Inv → step s = .next t → s.hreq = none → t.hreq = some q →
    (∀ w, s.inst.lw = some w → s.inst.B ≤ 2 ^ w → s.inst.B + s.inst.H < 2 ^ (w + 1) →
      q.length < 2 ^ (w + 1)) ∧
    ((s.phase = .keynorm ∧ s.inst.B < s.klen ∧ q = s.keyBytes ∧ q.length = s.klen ∧
        s.inst.B + 1 ≤ q.length ∧ ∀ w, s.inst.lw = some w → q.length < 2 ^ w) ∨
      (s.phase = .inner ∧ q = s.ipadb ++ s.msgBytes ∧ q.length = s.inst.B + s.mlen ∧
        1 ≤ q.length ∧ ∀ cap, s.inst.catCap = some cap → q.length ≤ cap) ∨
      (s.phase = .outer ∧ q = s.opadb ++ s.idig ∧ q.length = s.inst.B + s.inst.H ∧ 2 ≤ q.length))

/-- R101: delivery of the capability's answer is the step of KEYHASH.RSP, INNER.RSP or OUTER.RSP
according to PHASE (HASHRSP as that transition: log 13). -/
def Obligations.HashrspIsTheResponseStep : Prop :=
  ∀ (s : State) (q : Bytes), s.hreq = some q →
    (s.phase = .keyhashWait → ∃ t, exec (.hashrsp (hashOf s.inst q)) s = .next t ∧
      exec .keyhashRsp s = .next t ∧ t.hreq = none) ∧
    (s.phase = .innerWait → ∃ t, exec (.hashrsp (hashOf s.inst q)) s = .next t ∧
      exec .innerRsp s = .next t ∧ t.hreq = none) ∧
    (s.phase = .outerWait → ∃ t, exec (.hashrsp (hashOf s.inst q)) s = .next t ∧
      exec .outerRsp s = .next t ∧ t.hreq = none)

/-- R98, R105: a response is taken only if a request is outstanding, has exactly H bytes, and is the
function `hash` of the request; otherwise the model stops by name (log 5, log 6). -/
def Obligations.HashrspOutsideTheContractStops : Prop :=
  (∀ (s t : State) (g : Bytes), exec (.hashrsp g) s = .next t →
    ∃ q, s.hreq = some q ∧ g = hashOf s.inst q ∧ g.length = s.inst.H ∧ phaseWaits s.phase = true) ∧
  (∀ (s : State) (g : Bytes), s.hreq = none →
    exec (.hashrsp g) s = .refused .noRequestOutstanding) ∧
  (∀ (s : State) (g q : Bytes), s.hreq = some q → g.length ≠ s.inst.H →
    exec (.hashrsp g) s = .refused .malformedResponse)

/-! ### Reset -/

/-- R130, R131, R132: reset in any phase, and the wait for a command after it. -/
def Obligations.ResetLeavesTheResetState : Prop :=
  ∀ s : State, ∃ t, exec .reset s = .next t ∧
    t.Zeroed ∧ t.tag.length = s.inst.H ∧ (∀ i < s.inst.H, t.tag[i]? = some 0) ∧
    t.tagv = false ∧ t.hreq = none ∧
    (s.inst.H ≤ s.inst.B → t.err = .noError ∧ t.phase = .idle ∧ t.status = 0x00) ∧
    (s.inst.B < s.inst.H → t.err = .invalidHashParameters ∧ t.phase = .dead ∧ t.status = 0x1A) ∧
    t.inst = s.inst ∧ t.events = s.events ∧ SameMemory s t ∧
    (s.inst.wf = true → s.events = [] → step t = .next t)

/-- R29: the values after reset, for every instance. -/
def Obligations.ResetValues : Prop :=
  ∀ c : Inst,
    let s := State.resetOf c
    s.Zeroed ∧ s.inst = c ∧ s.tagv = false ∧ s.hreq = none ∧ s.busy = false ∧
    s.k0.length = c.B ∧ (∀ i < c.B, s.k0[i]? = some 0) ∧
    s.tag.length = c.H ∧ (∀ i < c.H, s.tag[i]? = some 0) ∧ s.klen = 0 ∧ s.mlen = 0 ∧
    (c.H ≤ c.B → s.phase = .idle ∧ s.err = .noError ∧ s.status = 0x00) ∧
    (c.B < c.H → s.phase = .dead ∧ s.err = .invalidHashParameters ∧ s.status = 0x1A)

/-- R133: a reset abandons an outstanding request; no response is taken for it (the model refuses one by
name, log 6). -/
def Obligations.ResetAbandonsTheRequest : Prop :=
  ∀ (s : State) (g : Bytes), ∃ t, exec .reset s = .next t ∧ t.hreq = none ∧
    exec (.hashrsp g) t = .refused .noRequestOutstanding

/-! ### Status and flags -/

/-- R49: the fields of STATUS in every state, and the values that can occur. -/
def Obligations.StatusFormat : Prop :=
  (∀ s : State,
    s.status.extractLsb' 0 4 = phaseCode s.phase ∧ s.status.extractLsb' 4 2 = errCode s.err ∧
    s.status.getLsbD 6 = s.tagv ∧ s.status.getLsbD 7 = s.busy) ∧
  (∀ s : State, s.Inv →
    (s.phase = .idle → s.status = 0x00) ∧ (s.phase = .keynorm → s.status = 0x81) ∧
    (s.phase = .keyhashWait → s.status = 0x82) ∧ (s.phase = .pads → s.status = 0x83) ∧
    (s.phase = .inner → s.status = 0x84) ∧ (s.phase = .innerWait → s.status = 0x85) ∧
    (s.phase = .outer → s.status = 0x86) ∧ (s.phase = .outerWait → s.status = 0x87) ∧
    (s.phase = .done → s.status = 0x48) ∧ (s.phase = .failed → s.status = 0x29) ∧
    (s.phase = .dead → s.status = 0x1A))

/-- R22: BUSY by the code of PHASE in every state; TAGV and ERR follow PHASE in every state of the
invariant. -/
def Obligations.FlagsFollowPhase : Prop :=
  (∀ s : State, s.busy = true ↔ 1 ≤ (phaseCode s.phase).toNat ∧ (phaseCode s.phase).toNat ≤ 7) ∧
  (∀ s : State, s.Inv →
    (s.tagv = true ↔ s.phase = .done) ∧ (s.err = .allocationFailure ↔ s.phase = .failed) ∧
    (s.err = .invalidHashParameters ↔ s.phase = .dead) ∧
    (s.busy = true → s.tagv = false ∧ s.err = .noError))

/-- R19, R54, R65: TAG has exactly H bytes, readable at the indices 0 to H - 1, all zero while TAGV = 0. -/
def Obligations.TagReadsExactlyH : Prop :=
  ∀ s : State, s.Inv → s.tag.length = s.inst.H ∧
    ∀ i, (s.inst.H ≤ i → s.readTag i = none) ∧
      (i < s.inst.H → s.readTag i = s.tag[i]? ∧ (s.tagv = false → s.readTag i = some 0))

/-! ### Invariants and whole-machine rules -/

/-- The reset state of every instance meets the invariant and carries nothing. -/
def Obligations.ResetMeetsTheInvariant : Prop :=
  (∀ c : Inst, (State.resetOf c).Inv ∧ (State.resetOf c).Carries) ∧ State.reset.Inv

/-- Every step keeps the invariant: sizes, flags, outstanding request, DEAD, zeroised when idle, tag
cleared, capacity, canonical memory. -/
def Obligations.StepKeepsTheInvariant : Prop :=
  ∀ s t : State, s.Inv → step s = .next t → t.Inv

/-- R63: on every interleaving of moves, every step keeps the buffers equal to the values R9 names, for
the key and the message in the caller spaces. -/
def Obligations.StepKeepsTheReferenceValues : Prop :=
  ∀ s t : State, s.Inv → s.Carries → step s = .next t → t.Carries

/-- R63: whatever moves came before, the step that ends an invocation leaves HMAC(key, msg) in TAG. -/
def Obligations.CompletionDeliversHmac : Prop :=
  ∀ s t : State, s.Inv → s.Carries → step s = .next t → s.phase = .outerWait → t.phase = .done →
    t.tag = hmac s.inst s.keyBytes s.msgBytes ∧ t.tag.length = s.inst.H ∧ t.tagv = true

/-- R9, R13, R63, R144: from any ready state of a valid instance, an accepted COMPUTE and then 6 steps, 7
with a long key, end in DONE with HMAC(key, msg) in TAG, STATUS 0x48 and the caller spaces untouched. -/
def Obligations.InvocationComputesHmac : Prop :=
  ∀ (s : State) (klen mlen : Nat), s.Inv → s.inst.wf = true → s.inst.H ≤ s.inst.B →
    s.busy = false →
    (∀ w, s.inst.lw = some w → klen < 2 ^ w ∧ mlen < 2 ^ w) →
    (∀ cap, s.inst.catCap = some cap → s.inst.B + mlen ≤ cap) →
    s.events = [.command { op := 0x01, klen := klen, mlen := mlen }] →
    ∃ t, Sys2Proof.core.run (if s.inst.B < klen then 8 else 7) s = .next t ∧
      t.phase = .done ∧ t.tagv = true ∧ t.status = 0x48 ∧ t.Zeroed ∧ t.hreq = none ∧
      t.tag = hmac s.inst (s.memRead .key 0 klen) (s.memRead .msg 0 mlen) ∧ SameMemory s t

/-- R13, R130: no other transition exists: a step is a reset, which leads to IDLE or DEAD by `H <= B`
whatever the phase; and on every other move it is a row of the table, or leaves the engine as it was. -/
def Obligations.NoOtherTransition : Prop :=
  ∀ s t : State, step s = .next t →
    (nextEvent s = .reset → t.phase = if s.inst.H ≤ s.inst.B then .idle else .dead) ∧
    (nextEvent s ≠ .reset →
      phaseStep s.phase t.phase = true ∨
      t = { s with events := s.events.tail, keyMem := t.keyMem, msgMem := t.msgMem })

/-- R112, R111: AllocationFailure is raised by the acceptance of a COMPUTE that does not fit, by nothing else. -/
def Obligations.FailedOnlyByCapacity : Prop :=
  ∀ (i : Instr) (s t : State), exec i s = .next t → t.phase = .failed → s.phase ≠ .failed →
    ∃ klen mlen cap, i = .compute klen mlen ∧ (s.phase = .idle ∨ s.phase = .done) ∧
      s.inst.catCap = some cap ∧ cap < s.inst.B + mlen

/-- R117: no step leads out of DEAD, reset included. -/
def Obligations.DeadIsForEver : Prop :=
  ∀ s t : State, s.Inv → s.phase = .dead → step s = .next t →
    t.phase = .dead ∧ t.err = .invalidHashParameters ∧ t.status = 0x1A ∧ t.hreq = none ∧ t.Zeroed ∧
    t.tag = List.replicate s.inst.H 0

/-- R32: no instruction writes a byte of the KEY or the MSG space. -/
def Obligations.EngineNeverWritesCallerSpaces : Prop :=
  ∀ (i : Instr) (s t : State), exec i s = .next t → SameMemory s t

/-- R33: while busy, no step changes a borrowed byte (the model's HOST has no such move, log 7). -/
def Obligations.BorrowedBytesStay : Prop :=
  ∀ s t : State, s.busy = true → step s = .next t →
    ∀ sp i, i < s.borrowed sp → t.readByte sp i = s.readByte sp i

/-- R2, R28: no step changes a parameter of the instance. -/
def Obligations.ParametersNeverChange : Prop :=
  ∀ s t : State, step s = .next t → t.inst = s.inst

/-- The caller spaces keep their canonical form under every step. -/
def Obligations.StepKeepsMemoryCanonical : Prop :=
  ∀ s t : State, Memory.wf s.keyMem = true → Memory.wf s.msgMem = true → step s = .next t →
    Memory.wf t.keyMem = true ∧ Memory.wf t.msgMem = true

/-- R59: a micro-operation completes only under its own selector (elsewhere the model refuses it, log 12). -/
def Obligations.MicroOperationsNeedTheirSelector : Prop :=
  ∀ s t : State,
    (exec .keynormLong s = .next t → s.phase = .keynorm ∧ s.inst.B < s.klen) ∧
    (exec .keynormShort s = .next t → s.phase = .keynorm ∧ s.klen < s.inst.B) ∧
    (exec .keynormEqual s = .next t → s.phase = .keynorm ∧ s.klen = s.inst.B) ∧
    (exec .keyhashRsp s = .next t → s.phase = .keyhashWait ∧ s.hreq.isSome = true) ∧
    (exec .pads s = .next t → s.phase = .pads) ∧
    (exec .innerReq s = .next t → s.phase = .inner) ∧
    (exec .innerRsp s = .next t → s.phase = .innerWait ∧ s.hreq.isSome = true) ∧
    (exec .outerReq s = .next t → s.phase = .outer) ∧
    (exec .outerRsp s = .next t → s.phase = .outerWait ∧ s.hreq.isSome = true)

/-- R19, R21, R22: only COMPUTE, OUTER.RSP (as a micro-operation or as its frame) and RESET write TAG,
TAGV or ERR. -/
def Obligations.WhoWritesTagAndErr : Prop :=
  ∀ (i : Instr) (s t : State), exec i s = .next t →
    t.tag ≠ s.tag ∨ t.tagv ≠ s.tagv ∨ t.err ≠ s.err →
    (∃ klen mlen, i = .compute klen mlen) ∨ i = .reset ∨
      (s.phase = .outerWait ∧ t.err = s.err ∧ (i = .outerRsp ∨ ∃ g, i = .hashrsp g))

/-- R27: no step but the one that delivers the tag lets anything the HOST sees, or anything but the
secrets themselves, depend on the key, the message, a working buffer or the content of a request: two
states that agree on all but these agree on all but these after it. So it is step after step, up to the
delivery of the tag, for every list of moves (log 3). -/
def Obligations.HostSeesNoSecretBeforeTheTag : Prop :=
  ∀ s s' t t' : State, SameButSecrets s s' →
    ¬ (s.phase = .outerWait ∧ (nextEvent s = .advance ∨ ∃ g, nextEvent s = .respond g)) →
    step s = .next t → step s' = .next t' →
    SameButSecrets t t' ∧ t.hostView = t'.hostView

/-- R67 (a), (b), (c): what the engine guarantees of its own data path. -/
def Obligations.KeysWithTheSameTag : Prop :=
  ∀ (c : Inst) (msg msg' key key' : Bytes),
    (msg ≠ msg' → innerRequest c key msg ≠ innerRequest c key msg') ∧
    (key.length ≤ c.B → key'.length ≤ c.B →
      (blockSizedKey c key = blockSizedKey c key' ↔
        key ++ List.replicate (c.B - key.length) 0 = key' ++ List.replicate (c.B - key'.length) 0)) ∧
    (key.length + 1 ≤ c.B → hmac c (key ++ [0]) msg = hmac c key msg) ∧
    (c.H ≤ c.B → c.B < key.length → hmac c (hashOf c key) msg = hmac c key msg)
end

