-- ==== Sys2Proof/Laws/State.lean ====
section
/-! SUPPORT. One lemma per field per update of the state, each true by rfl, so that no later proof
unfolds a record update. -/

namespace Sys2Proof.Machine

variable (s : State)

/-! ### setPhase -/
@[simp] theorem State.setPhase_inst (p : Phase) : (s.setPhase p).inst = s.inst := rfl
@[simp] theorem State.setPhase_phase (p : Phase) : (s.setPhase p).phase = p := rfl
@[simp] theorem State.setPhase_err (p : Phase) : (s.setPhase p).err = s.err := rfl
@[simp] theorem State.setPhase_tagv (p : Phase) : (s.setPhase p).tagv = s.tagv := rfl
@[simp] theorem State.setPhase_klen (p : Phase) : (s.setPhase p).klen = s.klen := rfl
@[simp] theorem State.setPhase_mlen (p : Phase) : (s.setPhase p).mlen = s.mlen := rfl
@[simp] theorem State.setPhase_k0 (p : Phase) : (s.setPhase p).k0 = s.k0 := rfl
@[simp] theorem State.setPhase_ipadb (p : Phase) : (s.setPhase p).ipadb = s.ipadb := rfl
@[simp] theorem State.setPhase_opadb (p : Phase) : (s.setPhase p).opadb = s.opadb := rfl
@[simp] theorem State.setPhase_cat1 (p : Phase) : (s.setPhase p).cat1 = s.cat1 := rfl
@[simp] theorem State.setPhase_cat2 (p : Phase) : (s.setPhase p).cat2 = s.cat2 := rfl
@[simp] theorem State.setPhase_idig (p : Phase) : (s.setPhase p).idig = s.idig := rfl
@[simp] theorem State.setPhase_tag (p : Phase) : (s.setPhase p).tag = s.tag := rfl
@[simp] theorem State.setPhase_hreq (p : Phase) : (s.setPhase p).hreq = s.hreq := rfl
@[simp] theorem State.setPhase_keyMem (p : Phase) : (s.setPhase p).keyMem = s.keyMem := rfl
@[simp] theorem State.setPhase_msgMem (p : Phase) : (s.setPhase p).msgMem = s.msgMem := rfl
@[simp] theorem State.setPhase_events (p : Phase) : (s.setPhase p).events = s.events := rfl

/-! ### setErr -/
@[simp] theorem State.setErr_inst (e : ErrCode) : (s.setErr e).inst = s.inst := rfl
@[simp] theorem State.setErr_phase (e : ErrCode) : (s.setErr e).phase = s.phase := rfl
@[simp] theorem State.setErr_err (e : ErrCode) : (s.setErr e).err = e := rfl
@[simp] theorem State.setErr_tagv (e : ErrCode) : (s.setErr e).tagv = s.tagv := rfl
@[simp] theorem State.setErr_klen (e : ErrCode) : (s.setErr e).klen = s.klen := rfl
@[simp] theorem State.setErr_mlen (e : ErrCode) : (s.setErr e).mlen = s.mlen := rfl
@[simp] theorem State.setErr_k0 (e : ErrCode) : (s.setErr e).k0 = s.k0 := rfl
@[simp] theorem State.setErr_ipadb (e : ErrCode) : (s.setErr e).ipadb = s.ipadb := rfl
@[simp] theorem State.setErr_opadb (e : ErrCode) : (s.setErr e).opadb = s.opadb := rfl
@[simp] theorem State.setErr_cat1 (e : ErrCode) : (s.setErr e).cat1 = s.cat1 := rfl
@[simp] theorem State.setErr_cat2 (e : ErrCode) : (s.setErr e).cat2 = s.cat2 := rfl
@[simp] theorem State.setErr_idig (e : ErrCode) : (s.setErr e).idig = s.idig := rfl
@[simp] theorem State.setErr_tag (e : ErrCode) : (s.setErr e).tag = s.tag := rfl
@[simp] theorem State.setErr_hreq (e : ErrCode) : (s.setErr e).hreq = s.hreq := rfl
@[simp] theorem State.setErr_keyMem (e : ErrCode) : (s.setErr e).keyMem = s.keyMem := rfl
@[simp] theorem State.setErr_msgMem (e : ErrCode) : (s.setErr e).msgMem = s.msgMem := rfl
@[simp] theorem State.setErr_events (e : ErrCode) : (s.setErr e).events = s.events := rfl

/-! ### setTag -/
@[simp] theorem State.setTag_inst (bs : Bytes) (v : Bool) : (s.setTag bs v).inst = s.inst := rfl
@[simp] theorem State.setTag_phase (bs : Bytes) (v : Bool) : (s.setTag bs v).phase = s.phase := rfl
@[simp] theorem State.setTag_err (bs : Bytes) (v : Bool) : (s.setTag bs v).err = s.err := rfl
@[simp] theorem State.setTag_tagv (bs : Bytes) (v : Bool) : (s.setTag bs v).tagv = v := rfl
@[simp] theorem State.setTag_klen (bs : Bytes) (v : Bool) : (s.setTag bs v).klen = s.klen := rfl
@[simp] theorem State.setTag_mlen (bs : Bytes) (v : Bool) : (s.setTag bs v).mlen = s.mlen := rfl
@[simp] theorem State.setTag_k0 (bs : Bytes) (v : Bool) : (s.setTag bs v).k0 = s.k0 := rfl
@[simp] theorem State.setTag_ipadb (bs : Bytes) (v : Bool) : (s.setTag bs v).ipadb = s.ipadb := rfl
@[simp] theorem State.setTag_opadb (bs : Bytes) (v : Bool) : (s.setTag bs v).opadb = s.opadb := rfl
@[simp] theorem State.setTag_cat1 (bs : Bytes) (v : Bool) : (s.setTag bs v).cat1 = s.cat1 := rfl
@[simp] theorem State.setTag_cat2 (bs : Bytes) (v : Bool) : (s.setTag bs v).cat2 = s.cat2 := rfl
@[simp] theorem State.setTag_idig (bs : Bytes) (v : Bool) : (s.setTag bs v).idig = s.idig := rfl
@[simp] theorem State.setTag_tag (bs : Bytes) (v : Bool) : (s.setTag bs v).tag = bs := rfl
@[simp] theorem State.setTag_hreq (bs : Bytes) (v : Bool) : (s.setTag bs v).hreq = s.hreq := rfl
@[simp] theorem State.setTag_keyMem (bs : Bytes) (v : Bool) : (s.setTag bs v).keyMem = s.keyMem := rfl
@[simp] theorem State.setTag_msgMem (bs : Bytes) (v : Bool) : (s.setTag bs v).msgMem = s.msgMem := rfl
@[simp] theorem State.setTag_events (bs : Bytes) (v : Bool) : (s.setTag bs v).events = s.events := rfl

/-! ### setLens -/
@[simp] theorem State.setLens_inst (k m : Nat) : (s.setLens k m).inst = s.inst := rfl
@[simp] theorem State.setLens_phase (k m : Nat) : (s.setLens k m).phase = s.phase := rfl
@[simp] theorem State.setLens_err (k m : Nat) : (s.setLens k m).err = s.err := rfl
@[simp] theorem State.setLens_tagv (k m : Nat) : (s.setLens k m).tagv = s.tagv := rfl
@[simp] theorem State.setLens_klen (k m : Nat) : (s.setLens k m).klen = k := rfl
@[simp] theorem State.setLens_mlen (k m : Nat) : (s.setLens k m).mlen = m := rfl
@[simp] theorem State.setLens_k0 (k m : Nat) : (s.setLens k m).k0 = s.k0 := rfl
@[simp] theorem State.setLens_ipadb (k m : Nat) : (s.setLens k m).ipadb = s.ipadb := rfl
@[simp] theorem State.setLens_opadb (k m : Nat) : (s.setLens k m).opadb = s.opadb := rfl
@[simp] theorem State.setLens_cat1 (k m : Nat) : (s.setLens k m).cat1 = s.cat1 := rfl
@[simp] theorem State.setLens_cat2 (k m : Nat) : (s.setLens k m).cat2 = s.cat2 := rfl
@[simp] theorem State.setLens_idig (k m : Nat) : (s.setLens k m).idig = s.idig := rfl
@[simp] theorem State.setLens_tag (k m : Nat) : (s.setLens k m).tag = s.tag := rfl
@[simp] theorem State.setLens_hreq (k m : Nat) : (s.setLens k m).hreq = s.hreq := rfl
@[simp] theorem State.setLens_keyMem (k m : Nat) : (s.setLens k m).keyMem = s.keyMem := rfl
@[simp] theorem State.setLens_msgMem (k m : Nat) : (s.setLens k m).msgMem = s.msgMem := rfl
@[simp] theorem State.setLens_events (k m : Nat) : (s.setLens k m).events = s.events := rfl

/-! ### setK0 -/
@[simp] theorem State.setK0_inst (bs : Bytes) : (s.setK0 bs).inst = s.inst := rfl
@[simp] theorem State.setK0_phase (bs : Bytes) : (s.setK0 bs).phase = s.phase := rfl
@[simp] theorem State.setK0_err (bs : Bytes) : (s.setK0 bs).err = s.err := rfl
@[simp] theorem State.setK0_tagv (bs : Bytes) : (s.setK0 bs).tagv = s.tagv := rfl
@[simp] theorem State.setK0_klen (bs : Bytes) : (s.setK0 bs).klen = s.klen := rfl
@[simp] theorem State.setK0_mlen (bs : Bytes) : (s.setK0 bs).mlen = s.mlen := rfl
@[simp] theorem State.setK0_k0 (bs : Bytes) : (s.setK0 bs).k0 = bs := rfl
@[simp] theorem State.setK0_ipadb (bs : Bytes) : (s.setK0 bs).ipadb = s.ipadb := rfl
@[simp] theorem State.setK0_opadb (bs : Bytes) : (s.setK0 bs).opadb = s.opadb := rfl
@[simp] theorem State.setK0_cat1 (bs : Bytes) : (s.setK0 bs).cat1 = s.cat1 := rfl
@[simp] theorem State.setK0_cat2 (bs : Bytes) : (s.setK0 bs).cat2 = s.cat2 := rfl
@[simp] theorem State.setK0_idig (bs : Bytes) : (s.setK0 bs).idig = s.idig := rfl
@[simp] theorem State.setK0_tag (bs : Bytes) : (s.setK0 bs).tag = s.tag := rfl
@[simp] theorem State.setK0_hreq (bs : Bytes) : (s.setK0 bs).hreq = s.hreq := rfl
@[simp] theorem State.setK0_keyMem (bs : Bytes) : (s.setK0 bs).keyMem = s.keyMem := rfl
@[simp] theorem State.setK0_msgMem (bs : Bytes) : (s.setK0 bs).msgMem = s.msgMem := rfl
@[simp] theorem State.setK0_events (bs : Bytes) : (s.setK0 bs).events = s.events := rfl

/-! ### setPads -/
@[simp] theorem State.setPads_inst (ip op : Bytes) : (s.setPads ip op).inst = s.inst := rfl
@[simp] theorem State.setPads_phase (ip op : Bytes) : (s.setPads ip op).phase = s.phase := rfl
@[simp] theorem State.setPads_err (ip op : Bytes) : (s.setPads ip op).err = s.err := rfl
@[simp] theorem State.setPads_tagv (ip op : Bytes) : (s.setPads ip op).tagv = s.tagv := rfl
@[simp] theorem State.setPads_klen (ip op : Bytes) : (s.setPads ip op).klen = s.klen := rfl
@[simp] theorem State.setPads_mlen (ip op : Bytes) : (s.setPads ip op).mlen = s.mlen := rfl
@[simp] theorem State.setPads_k0 (ip op : Bytes) : (s.setPads ip op).k0 = s.k0 := rfl
@[simp] theorem State.setPads_ipadb (ip op : Bytes) : (s.setPads ip op).ipadb = ip := rfl
@[simp] theorem State.setPads_opadb (ip op : Bytes) : (s.setPads ip op).opadb = op := rfl
@[simp] theorem State.setPads_cat1 (ip op : Bytes) : (s.setPads ip op).cat1 = s.cat1 := rfl
@[simp] theorem State.setPads_cat2 (ip op : Bytes) : (s.setPads ip op).cat2 = s.cat2 := rfl
@[simp] theorem State.setPads_idig (ip op : Bytes) : (s.setPads ip op).idig = s.idig := rfl
@[simp] theorem State.setPads_tag (ip op : Bytes) : (s.setPads ip op).tag = s.tag := rfl
@[simp] theorem State.setPads_hreq (ip op : Bytes) : (s.setPads ip op).hreq = s.hreq := rfl
@[simp] theorem State.setPads_keyMem (ip op : Bytes) : (s.setPads ip op).keyMem = s.keyMem := rfl
@[simp] theorem State.setPads_msgMem (ip op : Bytes) : (s.setPads ip op).msgMem = s.msgMem := rfl
@[simp] theorem State.setPads_events (ip op : Bytes) : (s.setPads ip op).events = s.events := rfl

/-! ### setCat1 -/
@[simp] theorem State.setCat1_inst (bs : Bytes) : (s.setCat1 bs).inst = s.inst := rfl
@[simp] theorem State.setCat1_phase (bs : Bytes) : (s.setCat1 bs).phase = s.phase := rfl
@[simp] theorem State.setCat1_err (bs : Bytes) : (s.setCat1 bs).err = s.err := rfl
@[simp] theorem State.setCat1_tagv (bs : Bytes) : (s.setCat1 bs).tagv = s.tagv := rfl
@[simp] theorem State.setCat1_klen (bs : Bytes) : (s.setCat1 bs).klen = s.klen := rfl
@[simp] theorem State.setCat1_mlen (bs : Bytes) : (s.setCat1 bs).mlen = s.mlen := rfl
@[simp] theorem State.setCat1_k0 (bs : Bytes) : (s.setCat1 bs).k0 = s.k0 := rfl
@[simp] theorem State.setCat1_ipadb (bs : Bytes) : (s.setCat1 bs).ipadb = s.ipadb := rfl
@[simp] theorem State.setCat1_opadb (bs : Bytes) : (s.setCat1 bs).opadb = s.opadb := rfl
@[simp] theorem State.setCat1_cat1 (bs : Bytes) : (s.setCat1 bs).cat1 = bs := rfl
@[simp] theorem State.setCat1_cat2 (bs : Bytes) : (s.setCat1 bs).cat2 = s.cat2 := rfl
@[simp] theorem State.setCat1_idig (bs : Bytes) : (s.setCat1 bs).idig = s.idig := rfl
@[simp] theorem State.setCat1_tag (bs : Bytes) : (s.setCat1 bs).tag = s.tag := rfl
@[simp] theorem State.setCat1_hreq (bs : Bytes) : (s.setCat1 bs).hreq = s.hreq := rfl
@[simp] theorem State.setCat1_keyMem (bs : Bytes) : (s.setCat1 bs).keyMem = s.keyMem := rfl
@[simp] theorem State.setCat1_msgMem (bs : Bytes) : (s.setCat1 bs).msgMem = s.msgMem := rfl
@[simp] theorem State.setCat1_events (bs : Bytes) : (s.setCat1 bs).events = s.events := rfl

/-! ### setCat2 -/
@[simp] theorem State.setCat2_inst (bs : Bytes) : (s.setCat2 bs).inst = s.inst := rfl
@[simp] theorem State.setCat2_phase (bs : Bytes) : (s.setCat2 bs).phase = s.phase := rfl
@[simp] theorem State.setCat2_err (bs : Bytes) : (s.setCat2 bs).err = s.err := rfl
@[simp] theorem State.setCat2_tagv (bs : Bytes) : (s.setCat2 bs).tagv = s.tagv := rfl
@[simp] theorem State.setCat2_klen (bs : Bytes) : (s.setCat2 bs).klen = s.klen := rfl
@[simp] theorem State.setCat2_mlen (bs : Bytes) : (s.setCat2 bs).mlen = s.mlen := rfl
@[simp] theorem State.setCat2_k0 (bs : Bytes) : (s.setCat2 bs).k0 = s.k0 := rfl
@[simp] theorem State.setCat2_ipadb (bs : Bytes) : (s.setCat2 bs).ipadb = s.ipadb := rfl
@[simp] theorem State.setCat2_opadb (bs : Bytes) : (s.setCat2 bs).opadb = s.opadb := rfl
@[simp] theorem State.setCat2_cat1 (bs : Bytes) : (s.setCat2 bs).cat1 = s.cat1 := rfl
@[simp] theorem State.setCat2_cat2 (bs : Bytes) : (s.setCat2 bs).cat2 = bs := rfl
@[simp] theorem State.setCat2_idig (bs : Bytes) : (s.setCat2 bs).idig = s.idig := rfl
@[simp] theorem State.setCat2_tag (bs : Bytes) : (s.setCat2 bs).tag = s.tag := rfl
@[simp] theorem State.setCat2_hreq (bs : Bytes) : (s.setCat2 bs).hreq = s.hreq := rfl
@[simp] theorem State.setCat2_keyMem (bs : Bytes) : (s.setCat2 bs).keyMem = s.keyMem := rfl
@[simp] theorem State.setCat2_msgMem (bs : Bytes) : (s.setCat2 bs).msgMem = s.msgMem := rfl
@[simp] theorem State.setCat2_events (bs : Bytes) : (s.setCat2 bs).events = s.events := rfl

/-! ### setIdig -/
@[simp] theorem State.setIdig_inst (bs : Bytes) : (s.setIdig bs).inst = s.inst := rfl
@[simp] theorem State.setIdig_phase (bs : Bytes) : (s.setIdig bs).phase = s.phase := rfl
@[simp] theorem State.setIdig_err (bs : Bytes) : (s.setIdig bs).err = s.err := rfl
@[simp] theorem State.setIdig_tagv (bs : Bytes) : (s.setIdig bs).tagv = s.tagv := rfl
@[simp] theorem State.setIdig_klen (bs : Bytes) : (s.setIdig bs).klen = s.klen := rfl
@[simp] theorem State.setIdig_mlen (bs : Bytes) : (s.setIdig bs).mlen = s.mlen := rfl
@[simp] theorem State.setIdig_k0 (bs : Bytes) : (s.setIdig bs).k0 = s.k0 := rfl
@[simp] theorem State.setIdig_ipadb (bs : Bytes) : (s.setIdig bs).ipadb = s.ipadb := rfl
@[simp] theorem State.setIdig_opadb (bs : Bytes) : (s.setIdig bs).opadb = s.opadb := rfl
@[simp] theorem State.setIdig_cat1 (bs : Bytes) : (s.setIdig bs).cat1 = s.cat1 := rfl
@[simp] theorem State.setIdig_cat2 (bs : Bytes) : (s.setIdig bs).cat2 = s.cat2 := rfl
@[simp] theorem State.setIdig_idig (bs : Bytes) : (s.setIdig bs).idig = bs := rfl
@[simp] theorem State.setIdig_tag (bs : Bytes) : (s.setIdig bs).tag = s.tag := rfl
@[simp] theorem State.setIdig_hreq (bs : Bytes) : (s.setIdig bs).hreq = s.hreq := rfl
@[simp] theorem State.setIdig_keyMem (bs : Bytes) : (s.setIdig bs).keyMem = s.keyMem := rfl
@[simp] theorem State.setIdig_msgMem (bs : Bytes) : (s.setIdig bs).msgMem = s.msgMem := rfl
@[simp] theorem State.setIdig_events (bs : Bytes) : (s.setIdig bs).events = s.events := rfl

/-! ### setHreq -/
@[simp] theorem State.setHreq_inst (q : Option Bytes) : (s.setHreq q).inst = s.inst := rfl
@[simp] theorem State.setHreq_phase (q : Option Bytes) : (s.setHreq q).phase = s.phase := rfl
@[simp] theorem State.setHreq_err (q : Option Bytes) : (s.setHreq q).err = s.err := rfl
@[simp] theorem State.setHreq_tagv (q : Option Bytes) : (s.setHreq q).tagv = s.tagv := rfl
@[simp] theorem State.setHreq_klen (q : Option Bytes) : (s.setHreq q).klen = s.klen := rfl
@[simp] theorem State.setHreq_mlen (q : Option Bytes) : (s.setHreq q).mlen = s.mlen := rfl
@[simp] theorem State.setHreq_k0 (q : Option Bytes) : (s.setHreq q).k0 = s.k0 := rfl
@[simp] theorem State.setHreq_ipadb (q : Option Bytes) : (s.setHreq q).ipadb = s.ipadb := rfl
@[simp] theorem State.setHreq_opadb (q : Option Bytes) : (s.setHreq q).opadb = s.opadb := rfl
@[simp] theorem State.setHreq_cat1 (q : Option Bytes) : (s.setHreq q).cat1 = s.cat1 := rfl
@[simp] theorem State.setHreq_cat2 (q : Option Bytes) : (s.setHreq q).cat2 = s.cat2 := rfl
@[simp] theorem State.setHreq_idig (q : Option Bytes) : (s.setHreq q).idig = s.idig := rfl
@[simp] theorem State.setHreq_tag (q : Option Bytes) : (s.setHreq q).tag = s.tag := rfl
@[simp] theorem State.setHreq_hreq (q : Option Bytes) : (s.setHreq q).hreq = q := rfl
@[simp] theorem State.setHreq_keyMem (q : Option Bytes) : (s.setHreq q).keyMem = s.keyMem := rfl
@[simp] theorem State.setHreq_msgMem (q : Option Bytes) : (s.setHreq q).msgMem = s.msgMem := rfl
@[simp] theorem State.setHreq_events (q : Option Bytes) : (s.setHreq q).events = s.events := rfl

/-! ### setEvents -/
@[simp] theorem State.setEvents_inst (es : List Event) : (s.setEvents es).inst = s.inst := rfl
@[simp] theorem State.setEvents_phase (es : List Event) : (s.setEvents es).phase = s.phase := rfl
@[simp] theorem State.setEvents_err (es : List Event) : (s.setEvents es).err = s.err := rfl
@[simp] theorem State.setEvents_tagv (es : List Event) : (s.setEvents es).tagv = s.tagv := rfl
@[simp] theorem State.setEvents_klen (es : List Event) : (s.setEvents es).klen = s.klen := rfl
@[simp] theorem State.setEvents_mlen (es : List Event) : (s.setEvents es).mlen = s.mlen := rfl
@[simp] theorem State.setEvents_k0 (es : List Event) : (s.setEvents es).k0 = s.k0 := rfl
@[simp] theorem State.setEvents_ipadb (es : List Event) : (s.setEvents es).ipadb = s.ipadb := rfl
@[simp] theorem State.setEvents_opadb (es : List Event) : (s.setEvents es).opadb = s.opadb := rfl
@[simp] theorem State.setEvents_cat1 (es : List Event) : (s.setEvents es).cat1 = s.cat1 := rfl
@[simp] theorem State.setEvents_cat2 (es : List Event) : (s.setEvents es).cat2 = s.cat2 := rfl
@[simp] theorem State.setEvents_idig (es : List Event) : (s.setEvents es).idig = s.idig := rfl
@[simp] theorem State.setEvents_tag (es : List Event) : (s.setEvents es).tag = s.tag := rfl
@[simp] theorem State.setEvents_hreq (es : List Event) : (s.setEvents es).hreq = s.hreq := rfl
@[simp] theorem State.setEvents_keyMem (es : List Event) : (s.setEvents es).keyMem = s.keyMem := rfl
@[simp] theorem State.setEvents_msgMem (es : List Event) : (s.setEvents es).msgMem = s.msgMem := rfl
@[simp] theorem State.setEvents_events (es : List Event) : (s.setEvents es).events = es := rfl

/-! ### zeroise -/
@[simp] theorem State.zeroise_inst : (s.zeroise).inst = s.inst := rfl
@[simp] theorem State.zeroise_phase : (s.zeroise).phase = s.phase := rfl
@[simp] theorem State.zeroise_err : (s.zeroise).err = s.err := rfl
@[simp] theorem State.zeroise_tagv : (s.zeroise).tagv = s.tagv := rfl
@[simp] theorem State.zeroise_klen : (s.zeroise).klen = 0 := rfl
@[simp] theorem State.zeroise_mlen : (s.zeroise).mlen = 0 := rfl
@[simp] theorem State.zeroise_k0 : (s.zeroise).k0 = zeros s.inst.B := rfl
@[simp] theorem State.zeroise_ipadb : (s.zeroise).ipadb = zeros s.inst.B := rfl
@[simp] theorem State.zeroise_opadb : (s.zeroise).opadb = zeros s.inst.B := rfl
@[simp] theorem State.zeroise_cat1 : (s.zeroise).cat1 = [] := rfl
@[simp] theorem State.zeroise_cat2 : (s.zeroise).cat2 = zeros (s.inst.B + s.inst.H) := rfl
@[simp] theorem State.zeroise_idig : (s.zeroise).idig = zeros s.inst.H := rfl
@[simp] theorem State.zeroise_tag : (s.zeroise).tag = s.tag := rfl
@[simp] theorem State.zeroise_hreq : (s.zeroise).hreq = s.hreq := rfl
@[simp] theorem State.zeroise_keyMem : (s.zeroise).keyMem = s.keyMem := rfl
@[simp] theorem State.zeroise_msgMem : (s.zeroise).msgMem = s.msgMem := rfl
@[simp] theorem State.zeroise_events : (s.zeroise).events = s.events := rfl

/-! ### clearTag -/
@[simp] theorem State.clearTag_inst : (s.clearTag).inst = s.inst := rfl
@[simp] theorem State.clearTag_phase : (s.clearTag).phase = s.phase := rfl
@[simp] theorem State.clearTag_err : (s.clearTag).err = s.err := rfl
@[simp] theorem State.clearTag_tagv : (s.clearTag).tagv = false := rfl
@[simp] theorem State.clearTag_klen : (s.clearTag).klen = s.klen := rfl
@[simp] theorem State.clearTag_mlen : (s.clearTag).mlen = s.mlen := rfl
@[simp] theorem State.clearTag_k0 : (s.clearTag).k0 = s.k0 := rfl
@[simp] theorem State.clearTag_ipadb : (s.clearTag).ipadb = s.ipadb := rfl
@[simp] theorem State.clearTag_opadb : (s.clearTag).opadb = s.opadb := rfl
@[simp] theorem State.clearTag_cat1 : (s.clearTag).cat1 = s.cat1 := rfl
@[simp] theorem State.clearTag_cat2 : (s.clearTag).cat2 = s.cat2 := rfl
@[simp] theorem State.clearTag_idig : (s.clearTag).idig = s.idig := rfl
@[simp] theorem State.clearTag_tag : (s.clearTag).tag = zeros s.inst.H := rfl
@[simp] theorem State.clearTag_hreq : (s.clearTag).hreq = s.hreq := rfl
@[simp] theorem State.clearTag_keyMem : (s.clearTag).keyMem = s.keyMem := rfl
@[simp] theorem State.clearTag_msgMem : (s.clearTag).msgMem = s.msgMem := rfl
@[simp] theorem State.clearTag_events : (s.clearTag).events = s.events := rfl

/-! ### setSpace -/
@[simp] theorem State.setSpace_inst (sp : Space) (m : Memory) : (s.setSpace sp m).inst = s.inst := by
  cases sp <;> rfl
@[simp] theorem State.setSpace_phase (sp : Space) (m : Memory) : (s.setSpace sp m).phase = s.phase := by
  cases sp <;> rfl
@[simp] theorem State.setSpace_err (sp : Space) (m : Memory) : (s.setSpace sp m).err = s.err := by
  cases sp <;> rfl
@[simp] theorem State.setSpace_tagv (sp : Space) (m : Memory) : (s.setSpace sp m).tagv = s.tagv := by
  cases sp <;> rfl
@[simp] theorem State.setSpace_klen (sp : Space) (m : Memory) : (s.setSpace sp m).klen = s.klen := by
  cases sp <;> rfl
@[simp] theorem State.setSpace_mlen (sp : Space) (m : Memory) : (s.setSpace sp m).mlen = s.mlen := by
  cases sp <;> rfl
@[simp] theorem State.setSpace_k0 (sp : Space) (m : Memory) : (s.setSpace sp m).k0 = s.k0 := by
  cases sp <;> rfl
@[simp] theorem State.setSpace_ipadb (sp : Space) (m : Memory) : (s.setSpace sp m).ipadb = s.ipadb := by
  cases sp <;> rfl
@[simp] theorem State.setSpace_opadb (sp : Space) (m : Memory) : (s.setSpace sp m).opadb = s.opadb := by
  cases sp <;> rfl
@[simp] theorem State.setSpace_cat1 (sp : Space) (m : Memory) : (s.setSpace sp m).cat1 = s.cat1 := by
  cases sp <;> rfl
@[simp] theorem State.setSpace_cat2 (sp : Space) (m : Memory) : (s.setSpace sp m).cat2 = s.cat2 := by
  cases sp <;> rfl
@[simp] theorem State.setSpace_idig (sp : Space) (m : Memory) : (s.setSpace sp m).idig = s.idig := by
  cases sp <;> rfl
@[simp] theorem State.setSpace_tag (sp : Space) (m : Memory) : (s.setSpace sp m).tag = s.tag := by
  cases sp <;> rfl
@[simp] theorem State.setSpace_hreq (sp : Space) (m : Memory) : (s.setSpace sp m).hreq = s.hreq := by
  cases sp <;> rfl
@[simp] theorem State.setSpace_events (sp : Space) (m : Memory) : (s.setSpace sp m).events = s.events := by
  cases sp <;> rfl
@[simp] theorem State.setSpace_space (sp : Space) (m : Memory) : (s.setSpace sp m).space sp = m := by
  cases sp <;> rfl
theorem State.setSpace_space_ne (sp sp' : Space) (m : Memory) (h : sp' ≠ sp) :
    (s.setSpace sp m).space sp' = s.space sp' := by
  cases sp <;> cases sp' <;> first | rfl | exact absurd rfl h

end Sys2Proof.Machine
end

