-- ==== Sys2Proof/Laws/Ops.lean ====
section
/-! SUPPORT. What each shared operation can do, said once: byte sequences, memory, the hash interface,
failures and reset. -/

namespace Sys2Proof.Machine

/-! ### Byte sequences -/

@[simp] theorem rep_length (b : Byte) (n : Nat) : (rep b n).length = n := by simp [rep]

@[simp] theorem zeros_length (n : Nat) : (zeros n).length = n := by simp [zeros]

@[simp] theorem zeros_zero : zeros 0 = [] := rfl

@[simp] theorem xorEach_length (b : Byte) (xs : Bytes) : (xorEach b xs).length = xs.length := by
  simp [xorEach]

theorem xorEach_getElem? (b : Byte) (xs : Bytes) (i : Nat) :
    (xorEach b xs)[i]? = xs[i]?.map (· ^^^ b) := by
  simp [xorEach]

/-- Lane-wise XOR with a repeated constant is XOR of every byte with it (R80 against R9). -/
theorem zipWith_rep_eq_xorEach (b : Byte) (xs : Bytes) :
    List.zipWith (· ^^^ ·) xs (rep b xs.length) = xorEach b xs := by
  induction xs with
  | nil => rfl
  | cons x xs ih =>
    simp only [rep, List.length_cons, List.replicate_succ, List.zipWith_cons_cons, xorEach,
      List.map_cons, List.cons.injEq, true_and] at ih ⊢
    exact ih

theorem padRight_length (n : Nat) (xs : Bytes) (h : xs.length ≤ n) : (padRight n xs).length = n := by
  simp [padRight]; omega

/-- `hash` answers with exactly `H` bytes (R98). -/
@[simp] theorem hashOf_length (c : Inst) (q : Bytes) : (hashOf c q).length = c.H := by
  unfold hashOf
  split <;> simp [fixtureDigest]

/-! ### Caller spaces -/

@[simp] theorem memRead_length (s : State) (sp : Space) (i n : Nat) :
    (s.memRead sp i n).length = n := by simp [State.memRead]

@[simp] theorem keyBytes_length (s : State) : s.keyBytes.length = s.klen := by
  simp [State.keyBytes]

@[simp] theorem msgBytes_length (s : State) : s.msgBytes.length = s.mlen := by
  simp [State.msgBytes]

/-- A read of a range depends on the placed bytes of that range alone. -/
theorem memRead_congr {s t : State} {sp : Space} {i n : Nat}
    (h : ∀ j < n, t.readByte sp (i + j) = s.readByte sp (i + j)) :
    t.memRead sp i n = s.memRead sp i n := by
  unfold State.memRead
  refine List.map_congr_left fun j hj => ?_
  simp [State.byteAt, h j (List.mem_range.mp hj)]

@[simp] theorem read_write_same (m : Memory) (i : Nat) (v : Byte) :
    Memory.read (Memory.write m i v) i = some v := by
  induction m with
  | nil => simp [Memory.write, Memory.read]
  | cons c rest ih =>
    obtain ⟨a, b⟩ := c
    unfold Memory.write
    split
    · simp [Memory.read]
    · split
      · simp [Memory.read]
      · next _ h => simp [Memory.read, h, ih]

theorem read_write_other (m : Memory) (i j : Nat) (v : Byte) (h : j ≠ i) :
    Memory.read (Memory.write m i v) j = Memory.read m j := by
  induction m with
  | nil => simp [Memory.write, Memory.read, h]
  | cons c rest ih =>
    obtain ⟨a, b⟩ := c
    unfold Memory.write
    split
    · simp [Memory.read, h]
    · split
      · next _ ha => subst ha; simp [Memory.read, h]
      · simp only [Memory.read, ih]

/-- After a write of a sequence, an index reads as the sequence's byte inside its range and as before
outside. -/
theorem read_writeAll (m : Memory) (i : Nat) (bs : Bytes) (j : Nat) :
    Memory.read (Memory.writeAll m i bs) j =
      if i ≤ j ∧ j < i + bs.length then bs[j - i]? else Memory.read m j := by
  induction bs generalizing m i with
  | nil =>
    rw [Memory.writeAll, if_neg]
    simp only [List.length_nil]
    omega
  | cons b bs ih =>
    rw [Memory.writeAll, ih]
    rcases Nat.lt_trichotomy j i with h | h | h
    · rw [if_neg (by omega), if_neg (by omega), read_write_other _ _ _ _ (by omega)]
    · subst h
      rw [if_neg (by omega), if_pos (by simp)]
      simp
    · by_cases h' : j < i + 1 + bs.length
      · rw [if_pos (by omega), if_pos (by simp only [List.length_cons]; omega)]
        obtain ⟨k, rfl⟩ : ∃ k, j = i + 1 + k := ⟨j - (i + 1), by omega⟩
        have h1 : i + 1 + k - (i + 1) = k := by omega
        have h2 : i + 1 + k - i = k + 1 := by omega
        simp [h1, h2]
      · rw [if_neg (by omega), if_neg (by simp only [List.length_cons]; omega),
          read_write_other _ _ _ _ (by omega)]

/-- Canonical form with every listed index at least `lo`: the shape the induction needs. -/
theorem write_wf_from (m : Memory) (i : Nat) (v : Byte) (lo : Nat)
    (h : Memory.wf m = true) (hlo : ∀ c ∈ m.head?, lo < c.1) (hi : lo < i) :
    Memory.wf (Memory.write m i v) = true ∧ ∀ c ∈ (Memory.write m i v).head?, lo < c.1 := by
  induction m generalizing lo with
  | nil => simp [Memory.write, Memory.wf, hi]
  | cons c rest ih =>
    obtain ⟨a, b⟩ := c
    have ha : lo < a := by simpa using hlo
    unfold Memory.write
    split
    · next hlt => simp [Memory.wf, h, hlt, hi]
    · split
      · next _ he =>
        subst he
        refine ⟨?_, by simpa using ha⟩
        cases rest with
        | nil => rfl
        | cons c' r => simpa [Memory.wf] using h
      · next h1 h2 =>
        have hrest : Memory.wf rest = true ∧ ∀ c ∈ rest.head?, a < c.1 := by
          cases rest with
          | nil => simp [Memory.wf]
          | cons c' r => simp [Memory.wf] at h ⊢; exact ⟨h.2, h.1⟩
        obtain ⟨hw, hh⟩ := ih a hrest.1 hrest.2 (by omega)
        refine ⟨?_, by simpa using ha⟩
        revert hw hh
        cases Memory.write rest i v with
        | nil => simp [Memory.wf]
        | cons c' r => simp [Memory.wf]; exact fun hw hh => ⟨hh, hw⟩

/-- A write keeps the canonical form. -/
theorem write_wf (m : Memory) (i : Nat) (v : Byte) (h : Memory.wf m = true) :
    Memory.wf (Memory.write m i v) = true := by
  cases m with
  | nil => rfl
  | cons c rest =>
    obtain ⟨a, b⟩ := c
    unfold Memory.write
    split
    · next hlt => simp [Memory.wf, h, hlt]
    · split
      · next _ he =>
        subst he
        cases rest with
        | nil => rfl
        | cons c' r => simpa [Memory.wf] using h
      · next h1 h2 =>
        have hrest : Memory.wf rest = true ∧ ∀ c ∈ rest.head?, a < c.1 := by
          cases rest with
          | nil => simp [Memory.wf]
          | cons c' r => simp [Memory.wf] at h ⊢; exact ⟨h.2, h.1⟩
        obtain ⟨hw, hh⟩ := write_wf_from rest i v a hrest.1 hrest.2 (by omega)
        revert hw hh
        cases Memory.write rest i v with
        | nil => simp [Memory.wf]
        | cons c' r => simp [Memory.wf]; exact fun hw hh => ⟨hh, hw⟩

/-- A write of a sequence keeps the canonical form. -/
theorem writeAll_wf (m : Memory) (i : Nat) (bs : Bytes) (h : Memory.wf m = true) :
    Memory.wf (Memory.writeAll m i bs) = true := by
  induction bs generalizing m i with
  | nil => exact h
  | cons b bs ih => exact ih _ _ (write_wf m i b h)

/-- The caller spaces of every instance's reset state are in canonical form. -/
theorem resetOf_memory_wf (c : Inst) :
    Memory.wf (State.resetOf c).keyMem = true ∧ Memory.wf (State.resetOf c).msgMem = true :=
  ⟨rfl, rfl⟩

/-- What an index of a space reads as after the HOST placed bytes. -/
theorem readByte_placeBytes (s : State) (sp sp' : Space) (i : Nat) (bs : Bytes) (j : Nat) :
    (s.placeBytes sp i bs).readByte sp' j =
      if sp' = sp ∧ i ≤ j ∧ j < i + bs.length then bs[j - i]? else s.readByte sp' j := by
  by_cases h : sp' = sp
  · subst h
    simp [State.readByte, State.placeBytes, read_writeAll]
  · simp [State.readByte, State.placeBytes, h, State.setSpace_space_ne]

/-! ### Hash interface -/

/-- A request is sent exactly when none is outstanding (R100). -/
theorem hashRequest_next {q : Bytes} {p : Phase} {s t : State} :
    hashRequest q p s = .next t ↔ s.hreq = none ∧ t = (s.setHreq (some q)).setPhase p := by
  unfold hashRequest
  cases s.hreq <;> simp [eq_comm]

/-- A response is taken exactly when a request is outstanding; it is the capability's answer (R101). -/
theorem hashResponse_next {store : Bytes → State → State} {s t : State} :
    hashResponse store s = .next t ↔
      ∃ q, s.hreq = some q ∧ t = store (hashOf s.inst q) (s.setHreq none) := by
  unfold hashResponse
  cases s.hreq <;> simp [eq_comm]

/-! ### Failures and reset -/

/-- The failure exit, field by field (R113). -/
theorem raiseAllocationFailure_eq (s : State) :
    s.raiseAllocationFailure =
      { s with
        phase := .failed, err := .allocationFailure, tagv := false, tag := zeros s.inst.H
        klen := 0, mlen := 0, k0 := zeros s.inst.B, ipadb := zeros s.inst.B
        opadb := zeros s.inst.B, cat1 := [], cat2 := zeros (s.inst.B + s.inst.H)
        idig := zeros s.inst.H } := rfl

/-- The engine's reset leaves the reset state of the instance, with the caller spaces and the moves to
come as they were (R130, R131). -/
theorem engineReset_eq (s : State) :
    s.engineReset =
      { State.resetOf s.inst with keyMem := s.keyMem, msgMem := s.msgMem, events := s.events } := rfl

end Sys2Proof.Machine
end

