-- ==== Sys2Proof/Laws/Exec.lean ====
section
/-! SUPPORT. What each meaning can do, said once per instruction: when it answers a next state, and
which one. -/

namespace Sys2Proof.Machine

variable {s t : State}

theorem execCompute_next {klen mlen : Nat} :
    exec (.compute klen mlen) s = .next t ↔
      (s.inst.lengthFits klen = true ∧ s.inst.lengthFits mlen = true) ∧
        t = if phaseReady s.phase then acceptCompute klen mlen s else s := by
  show execCompute klen mlen s = .next t ↔ _
  unfold execCompute State.raiseInvalidHashParameters
  by_cases h : (s.inst.lengthFits klen && s.inst.lengthFits mlen) = true
  · rw [if_pos h]
    simp only [Bool.and_eq_true] at h
    split
    · next hr => simp [h, eq_comm]
    · next hr => simp [h, eq_comm]
  · rw [if_neg h]
    simp only [Bool.and_eq_true] at h
    simp [h]

/-- Acceptance in one of its two forms (R62). -/
theorem acceptCompute_cases (klen mlen : Nat) (s : State) :
    (capacityExceeded s.inst mlen = true ∧
        acceptCompute klen mlen s = (s.clearTag).raiseAllocationFailure) ∨
      (capacityExceeded s.inst mlen = false ∧
        acceptCompute klen mlen s =
          (((s.clearTag).setErr .noError).setLens klen mlen).setPhase .keynorm) := by
  unfold acceptCompute
  cases capacityExceeded s.inst mlen <;> simp

theorem execKeynormLong_next :
    exec .keynormLong s = .next t ↔
      s.phase = .keynorm ∧ s.inst.B < s.klen ∧ s.hreq = none ∧
        t = (s.setHreq (some s.keyBytes)).setPhase .keyhashWait := by
  show execKeynormLong s = .next t ↔ _
  unfold execKeynormLong sendKey
  split
  · next h => simp [hashRequest_next, h]
  · next h => simp only [reduceCtorEq, false_iff]; tauto

theorem execKeynormShort_next :
    exec .keynormShort s = .next t ↔
      s.phase = .keynorm ∧ s.klen < s.inst.B ∧
        t = (s.setK0 (s.keyBytes ++ zeros (s.inst.B - s.klen))).setPhase .pads := by
  show execKeynormShort s = .next t ↔ _
  unfold execKeynormShort
  split
  · next h => simp [h, padRight, eq_comm]
  · next h => simp only [reduceCtorEq, false_iff]; tauto

theorem execKeynormEqual_next :
    exec .keynormEqual s = .next t ↔
      s.phase = .keynorm ∧ s.klen = s.inst.B ∧ t = (s.setK0 s.keyBytes).setPhase .pads := by
  show execKeynormEqual s = .next t ↔ _
  unfold execKeynormEqual
  split
  · next h => simp [h, State.keyBytes, eq_comm]
  · next h => simp only [reduceCtorEq, false_iff]; tauto

theorem execKeyhashRsp_next :
    exec .keyhashRsp s = .next t ↔
      s.phase = .keyhashWait ∧
        ∃ q, s.hreq = some q ∧ t = storeKeyDigest (hashOf s.inst q) (s.setHreq none) := by
  show execKeyhashRsp s = .next t ↔ _
  unfold execKeyhashRsp
  split
  · next h => simp [hashResponse_next, h]
  · next h => simp [h]

theorem execPads_next :
    exec .pads s = .next t ↔
      s.phase = .pads ∧
        t = (s.setPads (xorEach ipadByte s.k0) (xorEach opadByte s.k0)).setPhase .inner := by
  show execPads s = .next t ↔ _
  unfold execPads
  split
  · next h => simp [h, eq_comm]
  · next h => simp [h]

theorem execInnerReq_next :
    exec .innerReq s = .next t ↔
      s.phase = .inner ∧ s.hreq = none ∧
        t = ((s.setCat1 (s.ipadb ++ s.msgBytes)).setHreq (some (s.ipadb ++ s.msgBytes))).setPhase
          .innerWait := by
  show execInnerReq s = .next t ↔ _
  unfold execInnerReq sendInner
  split
  · next h => simp [hashRequest_next, h]
  · next h => simp [h]

theorem execInnerRsp_next :
    exec .innerRsp s = .next t ↔
      s.phase = .innerWait ∧
        ∃ q, s.hreq = some q ∧ t = storeInnerDigest (hashOf s.inst q) (s.setHreq none) := by
  show execInnerRsp s = .next t ↔ _
  unfold execInnerRsp
  split
  · next h => simp [hashResponse_next, h]
  · next h => simp [h]

theorem execOuterReq_next :
    exec .outerReq s = .next t ↔
      s.phase = .outer ∧ s.hreq = none ∧
        t = ((s.setCat2 (s.opadb ++ s.idig)).setHreq (some (s.opadb ++ s.idig))).setPhase
          .outerWait := by
  show execOuterReq s = .next t ↔ _
  unfold execOuterReq sendOuter
  split
  · next h => simp [hashRequest_next, h]
  · next h => simp [h]

theorem execOuterRsp_next :
    exec .outerRsp s = .next t ↔
      s.phase = .outerWait ∧
        ∃ q, s.hreq = some q ∧ t = storeTag (hashOf s.inst q) (s.setHreq none) := by
  show execOuterRsp s = .next t ↔ _
  unfold execOuterRsp
  split
  · next h => simp [hashResponse_next, h]
  · next h => simp [h]

/-- A request frame passes exactly as the issuing micro-operation's step (R100, R107). -/
theorem execHashreq_next {n : Nat} {data : Bytes} :
    exec (.hashreq n data) s = .next t ↔
      s.inst.requestLengthFits n = true ∧ n = data.length ∧ 1 ≤ n ∧
        ((s.keyBytes = data ∧ exec .keynormLong s = .next t) ∨
          (s.ipadb ++ s.msgBytes = data ∧ exec .innerReq s = .next t) ∨
          (s.opadb ++ s.idig = data ∧ exec .outerReq s = .next t)) := by
  show execHashreq n data s = .next t ↔ _
  rw [execKeynormLong_next, execInnerReq_next, execOuterReq_next]
  unfold execHashreq
  by_cases hf : s.inst.requestLengthFits n = true
  swap
  · simp [hf]
  rw [if_pos hf]
  simp only [hf, true_and]
  by_cases hn : n = data.length ∧ 1 ≤ n
  · simp only [hn.1.symm, hn.2, true_and]
    rcases hp : s.phase <;> simp only [requestToSend, sendByPhase, hp, reduceCtorEq, false_and,
      and_false, or_false, false_or, if_false, true_and, Option.some.injEq]
    · by_cases hk : s.inst.B < s.klen <;> by_cases hd : s.keyBytes = data <;>
        simp [sendKey, hashRequest_next, hk, hd]
    · by_cases hd : s.ipadb ++ s.msgBytes = data <;> simp [sendInner, hashRequest_next, hd]
    · by_cases hd : s.opadb ++ s.idig = data <;> simp [sendOuter, hashRequest_next, hd]
  · rw [if_neg fun h => hn ⟨h.1, h.2.1⟩]
    simp only [reduceCtorEq, false_iff]
    exact fun h => hn ⟨h.1, h.2.1⟩

/-- A delivered frame is the response step of the phase, with the capability's own answer (R101). -/
theorem execHashrsp_next {g : Bytes} :
    exec (.hashrsp g) s = .next t ↔
      (∃ q, s.hreq = some q ∧ g = hashOf s.inst q) ∧
        (exec .keyhashRsp s = .next t ∨ exec .innerRsp s = .next t ∨ exec .outerRsp s = .next t) := by
  show execHashrsp g s = .next t ↔ _
  rw [execKeyhashRsp_next, execInnerRsp_next, execOuterRsp_next]
  unfold execHashrsp
  cases hq : s.hreq with
  | none => simp
  | some q =>
    by_cases hg : g = hashOf s.inst q
    · subst hg
      rcases hp : s.phase <;> simp [storeByPhase, eq_comm]
    · by_cases hl : g.length = s.inst.H <;> simp [hg, hl]

theorem execReset_next : exec .reset s = .next t ↔ t = s.engineReset := by
  show execReset s = .next t ↔ _
  unfold execReset
  simp [eq_comm]

end Sys2Proof.Machine
end

