-- ==== Sys2Proof/Laws/Step.lean ====
section
/-! SUPPORT. What one step can do, said once: it runs the instruction its move selects, or makes a move
that runs none. -/

namespace Sys2Proof.Machine

@[simp] theorem phaseOfCode_phaseCode (p : Phase) : phaseOfCode (phaseCode p) = some p := by
  cases p <;> rfl

@[simp] theorem afterEvent_events (s : State) : (afterEvent s).events = s.events.tail := rfl

/-- Taking a move off the list changes nothing else. -/
theorem afterEvent_eq (s : State) : afterEvent s = { s with events := s.events.tail } := rfl

/-- `advance` runs the micro-operation PHASE and the comparison of KLEN with B select (R59, R70). -/
theorem eventInstr_advance (s : State) :
    eventInstr .advance s = (microOp s.phase s.klenCmp).toOption := by
  simp [eventInstr, decode]

theorem klenCmp_gt {s : State} : s.klenCmp = .gt ↔ s.inst.B < s.klen := by
  exact Nat.compare_eq_gt

theorem klenCmp_lt {s : State} : s.klenCmp = .lt ↔ s.klen < s.inst.B := by
  exact Nat.compare_eq_lt

theorem klenCmp_eq {s : State} : s.klenCmp = .eq ↔ s.klen = s.inst.B := by
  simp [State.klenCmp]

/-- A descriptor runs COMPUTE if its `op` is 0x01 and nothing otherwise (R46, R47). -/
theorem eventInstr_command (d : Descriptor) (s : State) :
    eventInstr (.command d) s = if d.op = computeOp then some (.compute d.klen d.mlen) else none := by
  simp only [eventInstr, decodeDescriptor]
  split <;> rfl

/-- A step to a next state: on an instance of the domain, an instruction or a move without one. -/
theorem step_next {s t : State} :
    step s = .next t ↔ s.inst.wf = true ∧
      ((∃ i, eventInstr (nextEvent s) (afterEvent s) = some i ∧ exec i (afterEvent s) = .next t) ∨
        (eventInstr (nextEvent s) (afterEvent s) = none ∧
          moveWithoutInstr (nextEvent s) (afterEvent s) = .next t)) := by
  unfold step
  by_cases hw : s.inst.wf = true
  · rw [if_pos hw]
    cases h : eventInstr (nextEvent s) (afterEvent s) <;> simp [hw]
  · simp [hw]

/-- The moves without an instruction that answer a next state: the HOST's placing of bytes that are not
borrowed, or no change at all. -/
theorem moveWithoutInstr_next {e : Event} {s t : State} (h : moveWithoutInstr e s = .next t) :
    (∃ sp i bs, e = .place sp i bs ∧ t = s.placeBytes sp i bs ∧
        (s.busy = true → bs ≠ [] → s.borrowed sp ≤ i)) ∨ t = s := by
  cases e with
  | place sp i bs =>
    left
    simp only [moveWithoutInstr] at h
    split at h
    · simp at h
    · next hc =>
      refine ⟨sp, i, bs, rfl, by simpa using h.symm, fun hb hn => ?_⟩
      by_contra hlt
      exact hc (by simp [hb, hn]; omega)
  | readTag i =>
    right
    simp only [moveWithoutInstr] at h
    split at h
    · simpa using h.symm
    · simp at h
  | advance => right; simpa [moveWithoutInstr] using h.symm
  | respond g => right; simpa [moveWithoutInstr] using h.symm
  | command d => right; simpa [moveWithoutInstr] using h.symm
  | reset => right; simpa [moveWithoutInstr] using h.symm
  | readStatus => right; simpa [moveWithoutInstr] using h.symm
  | pass => right; simpa [moveWithoutInstr] using h.symm

end Sys2Proof.Machine
end

