-- ==== Sys2Proof/Laws/Effect.lean ====
section
/-! SUPPORT. Everything an instruction and a step can do, said once, over all instructions; and the
conditions of COMPUTE in the form the statements use. -/

namespace Sys2Proof.Machine

/-! ### The conditions -/

theorem lengthFits_iff {c : Inst} {n : Nat} :
    c.lengthFits n = true ↔ ∀ w, c.lw = some w → n < 2 ^ w := by
  unfold Inst.lengthFits
  cases c.lw <;> simp

theorem requestLengthFits_iff {c : Inst} {n : Nat} :
    c.requestLengthFits n = true ↔ ∀ w, c.lw = some w → n < 2 ^ (w + 1) := by
  unfold Inst.requestLengthFits
  cases c.lw <;> simp

theorem capacityExceeded_eq_false {c : Inst} {m : Nat} :
    capacityExceeded c m = false ↔ ∀ cap, c.catCap = some cap → c.B + m ≤ cap := by
  unfold capacityExceeded
  cases c.catCap <;> simp

theorem capacityExceeded_eq_true {c : Inst} {m : Nat} :
    capacityExceeded c m = true ↔ ∃ cap, c.catCap = some cap ∧ cap < c.B + m := by
  unfold capacityExceeded
  cases c.catCap <;> simp

theorem phaseReady_iff {p : Phase} :
    phaseReady p = true ↔ p = .idle ∨ p = .done ∨ p = .failed := by
  cases p <;> simp [phaseReady]

theorem status_eq (s : State) :
    s.status = BitVec.ofBool (phaseBusy s.phase) ++ BitVec.ofBool s.tagv ++ errCode s.err
      ++ phaseCode s.phase := rfl

/-! ### The effect of an instruction -/

/-- What `exec i` can have done when it answers the next state `t`. The frames HASHREQ and HASHRSP have
the effect of the micro-operation they pass in. -/
inductive Effect (s t : State) : Instr → Prop where
  | ignored (k m : Nat) (h : phaseReady s.phase = false) (e : t = s) : Effect s t (.compute k m)
  | started (k m : Nat) (h : phaseReady s.phase = true)
      (hf : s.inst.lengthFits k = true ∧ s.inst.lengthFits m = true)
      (hc : capacityExceeded s.inst m = false)
      (e : t = (((s.clearTag).setErr .noError).setLens k m).setPhase .keynorm) :
      Effect s t (.compute k m)
  | failed (k m : Nat) (h : phaseReady s.phase = true) (hc : capacityExceeded s.inst m = true)
      (e : t = (s.clearTag).raiseAllocationFailure) : Effect s t (.compute k m)
  | keySent (i : Instr) (hi : i = .keynormLong ∨ ∃ n d, i = .hashreq n d)
      (h : s.phase = .keynorm) (hk : s.inst.B < s.klen) (hq : s.hreq = none)
      (e : t = (s.setHreq (some s.keyBytes)).setPhase .keyhashWait) : Effect s t i
  | keyPadded (h : s.phase = .keynorm) (hk : s.klen < s.inst.B)
      (e : t = (s.setK0 (s.keyBytes ++ zeros (s.inst.B - s.klen))).setPhase .pads) :
      Effect s t .keynormShort
  | keyCopied (h : s.phase = .keynorm) (hk : s.klen = s.inst.B)
      (e : t = (s.setK0 s.keyBytes).setPhase .pads) : Effect s t .keynormEqual
  | keyDigest (i : Instr) (q : Bytes) (hi : i = .keyhashRsp ∨ ∃ g, i = .hashrsp g)
      (h : s.phase = .keyhashWait) (hq : s.hreq = some q)
      (e : t = storeKeyDigest (hashOf s.inst q) (s.setHreq none)) : Effect s t i
  | padded (h : s.phase = .pads)
      (e : t = (s.setPads (xorEach ipadByte s.k0) (xorEach opadByte s.k0)).setPhase .inner) :
      Effect s t .pads
  | innerSent (i : Instr) (hi : i = .innerReq ∨ ∃ n d, i = .hashreq n d)
      (h : s.phase = .inner) (hq : s.hreq = none)
      (e : t = ((s.setCat1 (s.ipadb ++ s.msgBytes)).setHreq
        (some (s.ipadb ++ s.msgBytes))).setPhase .innerWait) : Effect s t i
  | innerDigest (i : Instr) (q : Bytes) (hi : i = .innerRsp ∨ ∃ g, i = .hashrsp g)
      (h : s.phase = .innerWait) (hq : s.hreq = some q)
      (e : t = storeInnerDigest (hashOf s.inst q) (s.setHreq none)) : Effect s t i
  | outerSent (i : Instr) (hi : i = .outerReq ∨ ∃ n d, i = .hashreq n d)
      (h : s.phase = .outer) (hq : s.hreq = none)
      (e : t = ((s.setCat2 (s.opadb ++ s.idig)).setHreq
        (some (s.opadb ++ s.idig))).setPhase .outerWait) : Effect s t i
  | delivered (i : Instr) (q : Bytes) (hi : i = .outerRsp ∨ ∃ g, i = .hashrsp g)
      (h : s.phase = .outerWait) (hq : s.hreq = some q)
      (e : t = storeTag (hashOf s.inst q) (s.setHreq none)) : Effect s t i
  | wasReset (e : t = s.engineReset) : Effect s t .reset

theorem keynormLong_effect {s t : State} {i : Instr} (hi : i = .keynormLong ∨ ∃ n d, i = .hashreq n d)
    (h : exec .keynormLong s = .next t) : Effect s t i := by
  obtain ⟨hp, hk, hq, e⟩ := execKeynormLong_next.1 h
  exact .keySent i hi hp hk hq e

theorem innerReq_effect {s t : State} {i : Instr} (hi : i = .innerReq ∨ ∃ n d, i = .hashreq n d)
    (h : exec .innerReq s = .next t) : Effect s t i := by
  obtain ⟨hp, hq, e⟩ := execInnerReq_next.1 h
  exact .innerSent i hi hp hq e

theorem outerReq_effect {s t : State} {i : Instr} (hi : i = .outerReq ∨ ∃ n d, i = .hashreq n d)
    (h : exec .outerReq s = .next t) : Effect s t i := by
  obtain ⟨hp, hq, e⟩ := execOuterReq_next.1 h
  exact .outerSent i hi hp hq e

theorem keyhashRsp_effect {s t : State} {i : Instr} (hi : i = .keyhashRsp ∨ ∃ g, i = .hashrsp g)
    (h : exec .keyhashRsp s = .next t) : Effect s t i := by
  obtain ⟨hp, q, hq, e⟩ := execKeyhashRsp_next.1 h
  exact .keyDigest i q hi hp hq e

theorem innerRsp_effect {s t : State} {i : Instr} (hi : i = .innerRsp ∨ ∃ g, i = .hashrsp g)
    (h : exec .innerRsp s = .next t) : Effect s t i := by
  obtain ⟨hp, q, hq, e⟩ := execInnerRsp_next.1 h
  exact .innerDigest i q hi hp hq e

theorem outerRsp_effect {s t : State} {i : Instr} (hi : i = .outerRsp ∨ ∃ g, i = .hashrsp g)
    (h : exec .outerRsp s = .next t) : Effect s t i := by
  obtain ⟨hp, q, hq, e⟩ := execOuterRsp_next.1 h
  exact .delivered i q hi hp hq e

theorem compute_effect {s t : State} {k m : Nat} (h : exec (.compute k m) s = .next t) :
    Effect s t (.compute k m) := by
  obtain ⟨hf, ht⟩ := execCompute_next.1 h
  by_cases hr : phaseReady s.phase = true
  · rw [if_pos hr] at ht
    rcases acceptCompute_cases k m s with ⟨hc, he⟩ | ⟨hc, he⟩
    · exact .failed k m hr hc (ht.trans he)
    · exact .started k m hr hf hc (ht.trans he)
  · rw [if_neg hr] at ht
    exact .ignored k m (by simpa using hr) ht

/-- Every instruction that answers a next state has one of the effects. -/
theorem exec_effect {i : Instr} {s t : State} (h : exec i s = .next t) : Effect s t i := by
  cases i with
  | compute k m => exact compute_effect h
  | keynormLong => exact keynormLong_effect (.inl rfl) h
  | keynormShort =>
    obtain ⟨hp, hk, e⟩ := execKeynormShort_next.1 h
    exact .keyPadded hp hk e
  | keynormEqual =>
    obtain ⟨hp, hk, e⟩ := execKeynormEqual_next.1 h
    exact .keyCopied hp hk e
  | keyhashRsp => exact keyhashRsp_effect (.inl rfl) h
  | pads =>
    obtain ⟨hp, e⟩ := execPads_next.1 h
    exact .padded hp e
  | innerReq => exact innerReq_effect (.inl rfl) h
  | innerRsp => exact innerRsp_effect (.inl rfl) h
  | outerReq => exact outerReq_effect (.inl rfl) h
  | outerRsp => exact outerRsp_effect (.inl rfl) h
  | hashreq n d =>
    obtain ⟨-, -, -, ⟨-, h⟩ | ⟨-, h⟩ | ⟨-, h⟩⟩ := execHashreq_next.1 h
    · exact keynormLong_effect (.inr ⟨n, d, rfl⟩) h
    · exact innerReq_effect (.inr ⟨n, d, rfl⟩) h
    · exact outerReq_effect (.inr ⟨n, d, rfl⟩) h
  | hashrsp g =>
    obtain ⟨-, h | h | h⟩ := execHashrsp_next.1 h
    · exact keyhashRsp_effect (.inr ⟨g, rfl⟩) h
    · exact innerRsp_effect (.inr ⟨g, rfl⟩) h
    · exact outerRsp_effect (.inr ⟨g, rfl⟩) h
  | reset => exact .wasReset (execReset_next.1 h)

/-- No effect touches the parameters, the caller spaces as data, or the moves to come. -/
theorem effect_surroundings {i : Instr} {s t : State} (h : Effect s t i) :
    t.inst = s.inst ∧ t.keyMem = s.keyMem ∧ t.msgMem = s.msgMem ∧ t.events = s.events := by
  cases h <;> subst_vars <;> exact ⟨rfl, rfl, rfl, rfl⟩

/-! ### The effect of a step -/

/-- A step to a next state has the effect of the instruction its move selects, or places bytes of the
HOST that are not borrowed, or changes nothing. -/
theorem step_effect {s t : State} (h : step s = .next t) :
    (∃ i, eventInstr (nextEvent s) (afterEvent s) = some i ∧ Effect (afterEvent s) t i) ∨
      (∃ sp i bs, nextEvent s = .place sp i bs ∧ t = (afterEvent s).placeBytes sp i bs ∧
        (s.busy = true → bs ≠ [] → s.borrowed sp ≤ i)) ∨
      (eventInstr (nextEvent s) (afterEvent s) = none ∧ t = afterEvent s) := by
  obtain ⟨-, ⟨i, h1, h2⟩ | ⟨h0, h1⟩⟩ := step_next.1 h
  · exact .inl ⟨i, h1, exec_effect h2⟩
  · rcases moveWithoutInstr_next h1 with ⟨sp, i, bs, h2, h3, h4⟩ | h2
    · exact .inr (.inl ⟨sp, i, bs, h2, h3, by cases sp <;> exact h4⟩)
    · exact .inr (.inr ⟨h0, h2⟩)

/-- With no move scheduled, the step is the instruction `advance` selects. -/
theorem step_advance {s t : State} {i : Instr} (hw : s.inst.wf = true) (he : s.events = [])
    (hi : eventInstr .advance s = some i) (hx : exec i s = .next t) : step s = .next t := by
  have ha : afterEvent s = s := by
    cases s
    simp only at he
    subst he
    rfl
  rw [step_next, ha]
  exact ⟨hw, .inl ⟨i, by simpa [nextEvent, he] using hi, hx⟩⟩

end Sys2Proof.Machine
end

