-- ==== Sys2Proof/Laws/PerInstr.lean ====
section
/-! SUPPORT. The per-instruction family Unambiguous: the code of an instruction stands for no other
instruction, where the comparison of `KLEN` with `B` is the one the instruction needs. -/

namespace Sys2Proof.Laws.Unambiguous

/-- No code of `i` decodes to anything but `i`. -/
def Statement (i : Instr) : Prop :=
  ∀ (c : Inst) (cmp : Ordering) (j : Instr),
    selectedUnder i cmp = true → decode c cmp (encode i) = .ok j → j = i

theorem compute (klen mlen : Nat) : Statement (.compute klen mlen) := by
  intro c cmp j _ h
  simp only [decode, encode, decodeDescriptor, if_true] at h
  split at h
  · simpa using h.symm
  · simp at h

theorem keynormLong : Statement .keynormLong := by
  intro c cmp j hs h
  cases cmp <;> simp_all [selectedUnder, decode, encode, phaseOfCode, microOp]

theorem keynormShort : Statement .keynormShort := by
  intro c cmp j hs h
  cases cmp <;> simp_all [selectedUnder, decode, encode, phaseOfCode, microOp]

theorem keynormEqual : Statement .keynormEqual := by
  intro c cmp j hs h
  cases cmp <;> simp_all [selectedUnder, decode, encode, phaseOfCode, microOp]

theorem keyhashRsp : Statement .keyhashRsp := by
  intro c cmp j _ h
  simp_all [decode, encode, phaseOfCode, microOp]

theorem pads : Statement .pads := by
  intro c cmp j _ h
  simp_all [decode, encode, phaseOfCode, microOp]

theorem innerReq : Statement .innerReq := by
  intro c cmp j _ h
  simp_all [decode, encode, phaseOfCode, microOp]

theorem innerRsp : Statement .innerRsp := by
  intro c cmp j _ h
  simp_all [decode, encode, phaseOfCode, microOp]

theorem outerReq : Statement .outerReq := by
  intro c cmp j _ h
  simp_all [decode, encode, phaseOfCode, microOp]

theorem outerRsp : Statement .outerRsp := by
  intro c cmp j _ h
  simp_all [decode, encode, phaseOfCode, microOp]

theorem hashreq (n : Nat) (data : Bytes) : Statement (.hashreq n data) := by
  intro c cmp j _ h
  simp only [decode, encode] at h
  split at h
  · split at h
    · simpa using h.symm
    · simp at h
  · simp at h

theorem hashrsp (digest : Bytes) : Statement (.hashrsp digest) := by
  intro c cmp j _ h
  simp only [decode, encode] at h
  split at h
  · simpa using h.symm
  · simp at h

theorem reset : Statement .reset := by
  intro c cmp j _ h
  simpa [decode, encode] using h.symm

end Sys2Proof.Laws.Unambiguous
end

