-- ==== Sys2Proof/Tests/Slice0.lean ====
section
/-! SUPPORT. The model's own tests. Expected values are the spec's (95_test_vectors.md, 30_encoding.md),
never the model's own answers. Then, for each statement with hypotheses, a witness that meets them. -/

namespace Sys2Proof.Tests

open Sys2Proof Sys2Proof.Machine

/-! ### Helpers -/

/-- The spec's instance T8 (95_test_vectors.md section 2), with LW = 8 and CAT_CAP = 64. -/
def t8 : Inst := { B := 8, H := 4, hash := .fixture, lw := some 8, catCap := some 64 }

/-- T8 with CAT_CAP = 16, as in program C. -/
def t8small : Inst := { t8 with catCap := some 16 }

/-- The spec's instance T4, `H = B`. -/
def t4 : Inst := { B := 4, H := 4, hash := .fixture, lw := some 8, catCap := none }

/-- The spec's instance T2, `H > B`. -/
def t2 : Inst := { B := 2, H := 4, hash := .fixture, lw := some 8, catCap := some 64 }

/-- T8 with LW = 1: length fields of frames have two bits. -/
def tNarrow : Inst := { t8 with lw := some 1 }

/-- Does an outcome answer this next state? -/
def isNext (o : Host.Outcome State Fault Refusal) (t : State) : Bool :=
  match o with
  | .next s => decide (s = t)
  | .fault _ => false
  | .refused _ => false

theorem eq_of_isNext {o : Host.Outcome State Fault Refusal} {t : State} (h : isNext o t = true) :
    o = .next t := by
  cases o with
  | next s => simpa [isNext] using h
  | fault r => simp [isNext] at h
  | refused r => simp [isNext] at h

/-- `Zeroed` as a computed answer. -/
def zeroedCheck (s : State) : Bool :=
  decide (s.k0 = zeros s.inst.B ∧ s.ipadb = zeros s.inst.B ∧ s.opadb = zeros s.inst.B ∧ s.cat1 = [] ∧
    s.cat2 = zeros (s.inst.B + s.inst.H) ∧ s.idig = zeros s.inst.H ∧ s.klen = 0 ∧ s.mlen = 0)

theorem zeroed_of_check {s : State} (h : zeroedCheck s = true) : s.Zeroed := by
  obtain ⟨h1, h2, h3, h4, h5, h6, h7, h8⟩ := of_decide_eq_true h
  exact ⟨h1, h2, h3, h4, h5, h6, h7, h8⟩

/-- `Inv` as a computed answer. -/
def invCheck (s : State) : Bool :=
  decide (s.k0.length = s.inst.B ∧ s.ipadb.length = s.inst.B ∧ s.opadb.length = s.inst.B ∧
    s.cat2.length = s.inst.B + s.inst.H ∧ s.idig.length = s.inst.H ∧ s.tag.length = s.inst.H) &&
  decide (s.cat1.length = if phaseHoldsCat1 s.phase then s.inst.B + s.mlen else 0) &&
  decide (s.inst.lengthFits s.klen = true ∧ s.inst.lengthFits s.mlen = true) &&
  decide ((s.tagv = true ↔ s.phase = .done) ∧ (s.err = .allocationFailure ↔ s.phase = .failed) ∧
    (s.err = .invalidHashParameters ↔ s.phase = .dead)) &&
  decide (s.hreq.isSome = phaseWaits s.phase) &&
  decide (s.phase = .dead ↔ s.inst.B < s.inst.H) &&
  (s.busy || zeroedCheck s) &&
  decide (s.tagv = false → s.tag = zeros s.inst.H) &&
  decide (s.busy = true → capacityExceeded s.inst s.mlen = false) &&
  decide (Memory.wf s.keyMem = true ∧ Memory.wf s.msgMem = true)

theorem inv_of_check {s : State} (h : invCheck s = true) : s.Inv := by
  simp only [invCheck, Bool.and_eq_true, decide_eq_true_eq, Bool.or_eq_true] at h
  obtain ⟨⟨⟨⟨⟨⟨⟨⟨⟨h1, h2⟩, h3⟩, h4⟩, h5⟩, h6⟩, h7⟩, h8⟩, h9⟩, h10⟩ := h
  refine ⟨h1, h2, h3, h4, h5, h6, fun hb => ?_, h8, h9, h10⟩
  rw [hb] at h7
  exact zeroed_of_check (by simpa using h7)

/-! ### The states of vector V2 (key 01, message aa), from the spec's trace of it -/

def v2Idle : State := { State.resetOf t8 with keyMem := [(0, 0x01)], msgMem := [(0, 0xaa)] }

def v2Keynorm : State := { v2Idle with phase := .keynorm, klen := 1, mlen := 1 }

def v2Pads : State := { v2Keynorm with phase := .pads, k0 := [0x01, 0, 0, 0, 0, 0, 0, 0] }

def v2Inner : State :=
  { v2Pads with
    phase := .inner
    ipadb := [0x37, 0x36, 0x36, 0x36, 0x36, 0x36, 0x36, 0x36]
    opadb := [0x5d, 0x5c, 0x5c, 0x5c, 0x5c, 0x5c, 0x5c, 0x5c] }

def v2InnerFrame : Bytes := [0x37, 0x36, 0x36, 0x36, 0x36, 0x36, 0x36, 0x36, 0xaa]

def v2InnerWait : State :=
  { v2Inner with phase := .innerWait, cat1 := v2InnerFrame, hreq := some v2InnerFrame }

def v2InnerDigest : Bytes := [0xc6, 0x74, 0xef, 0xba]

def v2Outer : State := { v2InnerWait with phase := .outer, idig := v2InnerDigest, hreq := none }

def v2OuterFrame : Bytes := [0x5d, 0x5c, 0x5c, 0x5c, 0x5c, 0x5c, 0x5c, 0x5c, 0xc6, 0x74, 0xef, 0xba]

def v2OuterWait : State :=
  { v2Outer with phase := .outerWait, cat2 := v2OuterFrame, hreq := some v2OuterFrame }

def v2Tag : Bytes := [0x32, 0xbd, 0x05, 0x33]

def v2Done : State := { v2Idle with phase := .done, tag := v2Tag, tagv := true }

/-! ### The first states of vector V5 (key 01 to 09, message 10 to 50), a long key -/

def v5Key : Bytes := [0x01, 0x02, 0x03, 0x04, 0x05, 0x06, 0x07, 0x08, 0x09]

def v5Keynorm : State :=
  { State.resetOf t8 with
    phase := .keynorm, klen := 9, mlen := 5
    keyMem := [(0, 0x01), (1, 0x02), (2, 0x03), (3, 0x04), (4, 0x05), (5, 0x06), (6, 0x07), (7, 0x08),
      (8, 0x09)]
    msgMem := [(0, 0x10), (1, 0x20), (2, 0x30), (3, 0x40), (4, 0x50)] }

def v5KeyhashWait : State := { v5Keynorm with phase := .keyhashWait, hreq := some v5Key }

def v5Pads : State := { v5Keynorm with phase := .pads, k0 := [0x82, 0xee, 0xf4, 0xcc, 0, 0, 0, 0] }

/-- Vector V4: the same key with length 8, equal to B. -/
def v4Keynorm : State := { v5Keynorm with klen := 8, mlen := 4 }

def v4Pads : State :=
  { v4Keynorm with phase := .pads, k0 := [0x01, 0x02, 0x03, 0x04, 0x05, 0x06, 0x07, 0x08] }

/-- Vector W1 at its response step: `H = B`, no zero padding. -/
def w1KeyhashWait : State :=
  { State.resetOf t4 with
    phase := .keyhashWait, klen := 5, mlen := 3, hreq := some [0xde, 0xad, 0xbe, 0xef, 0x01] }

/-- Program C: FAILED after AllocationFailure on T8 with CAT_CAP = 16. -/
def cFailed : State := { State.resetOf t8small with phase := .failed, err := .allocationFailure }

/-- A state with moves to come. -/
def State.withMoves (s : State) (es : List Event) : State := { s with events := es }

/-! ### Well-formedness: one ill-formed term for each check, refused -/

theorem test_wf_klen_too_long : (Instr.compute 256 0).wf t8 = false := by decide
theorem test_wf_mlen_too_long : (Instr.compute 0 256).wf t8 = false := by decide
theorem test_wf_lengths_fit : (Instr.compute 255 255).wf t8 = true := by decide
theorem test_wf_request_length_field : (Instr.hashreq 3 [1, 2]).wf t8 = false := by decide
theorem test_wf_request_empty : (Instr.hashreq 0 []).wf t8 = false := by decide
theorem test_wf_request_too_long : (Instr.hashreq 4 [1, 2, 3, 4]).wf tNarrow = false := by decide
theorem test_wf_request_longest : (Instr.hashreq 3 [1, 2, 3]).wf tNarrow = true := by decide
theorem test_wf_request_ok : (Instr.hashreq 2 [1, 2]).wf t8 = true := by decide
theorem test_wf_response_short : (Instr.hashrsp [1, 2, 3]).wf t8 = false := by decide
theorem test_wf_response_ok : (Instr.hashrsp [1, 2, 3, 4]).wf t8 = true := by decide

/-! ### Decoding: words of 30_encoding.md and 95_test_vectors.md section 5 -/

/-- The opcode table's example: LW = 8, klen 1, mlen 1. -/
theorem test_decode_compute : decodeCmdWord 8 0x010101 = .ok (.compute 1 1) := by rfl
/-- Program B's second command and program C's, klen and mlen told apart. -/
theorem test_decode_compute_fields : decodeCmdWord 8 0x050901 = .ok (.compute 9 5) := by rfl
theorem test_decode_compute_program_c : decodeCmdWord 8 0x090101 = .ok (.compute 1 9) := by rfl
/-- The reserved op of program E. -/
theorem test_decode_reserved_op : decodeCmdWord 8 0x000007 = .error (.reservedOp 0x07) := by rfl
theorem test_decode_word_too_wide : decodeCmdWord 8 0x1000001 = .error .descriptorTooWide := by rfl
theorem test_decode_length_not_expressible :
    decode t8 .eq (.descriptor { op := 0x01, klen := 256, mlen := 0 }) =
      .error .lengthNotExpressible := by rfl
/-- PHASE code 0001 in KEYNORM, by the comparison of KLEN with B (R59, R70). -/
theorem test_decode_keynorm_long : decode t8 .gt (.selector 0b0001) = .ok .keynormLong := by rfl
theorem test_decode_keynorm_short : decode t8 .lt (.selector 0b0001) = .ok .keynormShort := by rfl
theorem test_decode_keynorm_equal : decode t8 .eq (.selector 0b0001) = .ok .keynormEqual := by rfl
theorem test_decode_keyhash_rsp : decode t8 .gt (.selector 0b0010) = .ok .keyhashRsp := by rfl
theorem test_decode_pads : decode t8 .gt (.selector 0b0011) = .ok .pads := by rfl
theorem test_decode_inner_req : decode t8 .gt (.selector 0b0100) = .ok .innerReq := by rfl
theorem test_decode_inner_rsp : decode t8 .gt (.selector 0b0101) = .ok .innerRsp := by rfl
theorem test_decode_outer_req : decode t8 .gt (.selector 0b0110) = .ok .outerReq := by rfl
theorem test_decode_outer_rsp : decode t8 .gt (.selector 0b0111) = .ok .outerRsp := by rfl
theorem test_decode_idle_selects_nothing :
    decode t8 .gt (.selector 0b0000) = .error (.noMicroOperation .idle) := by rfl
theorem test_decode_reserved_phase :
    decode t8 .gt (.selector 0b1011) = .error (.reservedPhase 0b1011) := by rfl
/-- V2's inner request: n = 9, then its nine bytes. -/
theorem test_decode_hashreq :
    decode t8 .gt (.requestFrame 9 v2InnerFrame) = .ok (.hashreq 9 v2InnerFrame) := by rfl
theorem test_decode_hashreq_wrong_length :
    decode t8 .gt (.requestFrame 8 v2InnerFrame) = .error .badRequestLength := by rfl
/-- R52: n has LW + 1 bits. -/
theorem test_decode_hashreq_too_long :
    decode tNarrow .gt (.requestFrame 4 [1, 2, 3, 4]) = .error .requestLengthNotExpressible := by rfl
theorem test_decode_hashrsp :
    decode t8 .gt (.responseFrame v2InnerDigest) = .ok (.hashrsp v2InnerDigest) := by rfl
theorem test_decode_hashrsp_wrong_length :
    decode t8 .gt (.responseFrame [0xc6]) = .error .badResponseLength := by rfl
theorem test_decode_reset : decode t8 .gt .resetSignal = .ok .reset := by rfl
theorem test_encode_compute : computeWord 8 80 20 = 0x145001 := by decide
theorem test_table_word_compute : decodeTableWord 8 0x01 = some (.compute 0 0) := by decide
theorem test_table_word_inner_rsp : decodeTableWord 8 0x05 = some .innerRsp := by decide
theorem test_table_word_reserved : decodeTableWord 8 0x0b = none := by decide

/-! ### The fixture hash: the check values of 95_test_vectors.md section 2 -/

theorem test_fixture_empty : fixtureDigest 4 [] = [0x81, 0x1c, 0x9d, 0xc5] := by decide
theorem test_fixture_a : fixtureDigest 4 [0x61] = [0xe4, 0x0c, 0x29, 0x2c] := by decide
theorem test_fixture_foobar :
    fixtureDigest 4 [0x66, 0x6f, 0x6f, 0x62, 0x61, 0x72] = [0xbf, 0x9c, 0xf9, 0x68] := by decide

/-! ### One step of each instruction -/

theorem test_compute_starts : exec (.compute 1 1) v2Idle = .next v2Keynorm :=
  eq_of_isNext (by decide)
/-- Program C: 8 + 9 > 16. -/
theorem test_compute_allocation_failure : exec (.compute 1 9) (State.resetOf t8small) = .next cFailed :=
  eq_of_isNext (by decide)
theorem test_keynorm_long : exec .keynormLong v5Keynorm = .next v5KeyhashWait :=
  eq_of_isNext (by decide)
theorem test_keynorm_long_not_selected : exec .keynormLong v4Keynorm = .refused .notSelected := by rfl
theorem test_keynorm_short : exec .keynormShort v2Keynorm = .next v2Pads :=
  eq_of_isNext (by decide)
theorem test_keynorm_equal : exec .keynormEqual v4Keynorm = .next v4Pads :=
  eq_of_isNext (by decide)
theorem test_keyhash_rsp : exec .keyhashRsp v5KeyhashWait = .next v5Pads :=
  eq_of_isNext (by decide)
/-- W1: the digest fills K0 when `H = B`. -/
theorem test_keyhash_rsp_full :
    exec .keyhashRsp w1KeyhashWait =
      .next { w1KeyhashWait with phase := .pads, hreq := none, k0 := [0x90, 0xde, 0x29, 0x36] } :=
  eq_of_isNext (by decide)
theorem test_pads : exec .pads v2Pads = .next v2Inner := eq_of_isNext (by decide)
/-- V5's pads: `b4 d8 c2 fa` and `de b2 a8 90`, then 36 and 5c. -/
theorem test_pads_v5 :
    exec .pads v5Pads = .next { v5Pads with
      phase := .inner
      ipadb := [0xb4, 0xd8, 0xc2, 0xfa, 0x36, 0x36, 0x36, 0x36]
      opadb := [0xde, 0xb2, 0xa8, 0x90, 0x5c, 0x5c, 0x5c, 0x5c] } :=
  eq_of_isNext (by decide)
theorem test_inner_req : exec .innerReq v2Inner = .next v2InnerWait := eq_of_isNext (by decide)
theorem test_inner_rsp : exec .innerRsp v2InnerWait = .next v2Outer := eq_of_isNext (by decide)
theorem test_outer_req : exec .outerReq v2Outer = .next v2OuterWait := eq_of_isNext (by decide)
theorem test_outer_rsp : exec .outerRsp v2OuterWait = .next v2Done := eq_of_isNext (by decide)
theorem test_hashreq : exec (.hashreq 9 v2InnerFrame) v2Inner = .next v2InnerWait :=
  eq_of_isNext (by decide)
theorem test_hashreq_other_frame :
    exec (.hashreq 9 [1, 2, 3, 4, 5, 6, 7, 8, 9]) v2Inner = .refused .frameNotSent := by rfl
theorem test_hashrsp : exec (.hashrsp v2InnerDigest) v2InnerWait = .next v2Outer :=
  eq_of_isNext (by decide)
theorem test_hashrsp_delivers_tag : exec (.hashrsp v2Tag) v2OuterWait = .next v2Done :=
  eq_of_isNext (by decide)
theorem test_reset_in_progress : exec .reset v2InnerWait = .next v2Idle :=
  eq_of_isNext (by decide)
/-- Program D: reset of an instance with `H > B`. -/
theorem test_reset_dead : exec .reset (State.resetOf t2) = .next (State.resetOf t2) :=
  eq_of_isNext (by decide)

/-! ### STATUS (R49: the table of values that can occur), and the step -/

theorem test_status_keynorm : v2Keynorm.status = 0x81 := by decide
theorem test_status_outer_wait : v2OuterWait.status = 0x87 := by decide
theorem test_status_done : v2Done.status = 0x48 := by decide
theorem test_status_failed : cFailed.status = 0x29 := by decide
theorem test_status_dead : (State.resetOf t2).status = 0x1A := by decide
theorem test_reference_v2 : hmac t8 [0x01] [0xaa] = v2Tag := by decide

theorem test_step_command :
    step (State.withMoves v2Idle [.command { op := 0x01, klen := 1, mlen := 1 }]) = .next v2Keynorm :=
  eq_of_isNext (by decide)
theorem test_step_place :
    step (State.withMoves (State.resetOf t8) [.place .key 0 [0x01], .place .msg 0 [0xaa]]) =
      .next (State.withMoves { State.resetOf t8 with keyMem := [(0, 0x01)] }
        [.place .msg 0 [0xaa]]) :=
  eq_of_isNext (by decide)
theorem test_step_advance : step v2Inner = .next v2InnerWait := eq_of_isNext (by decide)
theorem test_fetch_word_compute :
    step (State.reset.withFetchWord 8 0x01) =
      .next { State.reset with phase := .keynorm } := eq_of_isNext (by decide)
theorem test_fetch_word_pads :
    step (State.reset.withFetchWord 8 0x03) = exec .pads { State.reset with phase := .pads } := by rfl

/-! ### Witnesses: concrete states and operands that meet the hypotheses of each statement -/

theorem idle_inv : v2Idle.Inv := inv_of_check (by decide)
theorem keynorm_inv : v2Keynorm.Inv := inv_of_check (by decide)
theorem long_keynorm_inv : v5Keynorm.Inv := inv_of_check (by decide)
theorem equal_keynorm_inv : v4Keynorm.Inv := inv_of_check (by decide)
theorem keyhashWait_inv : v5KeyhashWait.Inv := inv_of_check (by decide)
theorem pads_inv : v2Pads.Inv := inv_of_check (by decide)
theorem inner_inv : v2Inner.Inv := inv_of_check (by decide)
theorem innerWait_inv : v2InnerWait.Inv := inv_of_check (by decide)
theorem outer_inv : v2Outer.Inv := inv_of_check (by decide)
theorem outerWait_inv : v2OuterWait.Inv := inv_of_check (by decide)
theorem done_inv : v2Done.Inv := inv_of_check (by decide)
theorem failed_inv : cFailed.Inv := inv_of_check (by decide)
theorem dead_inv : (State.resetOf t2).Inv := inv_of_check (by decide)

theorem outerWait_carries : v2OuterWait.Carries := by
  show v2OuterWait.hreq = some (outerRequest v2OuterWait.inst v2OuterWait.keyBytes v2OuterWait.msgBytes)
  decide
theorem keyhashWait_carries : v5KeyhashWait.Carries := by
  show v5KeyhashWait.inst.B < v5KeyhashWait.klen ∧ v5KeyhashWait.hreq = some v5KeyhashWait.keyBytes
  decide
theorem keynorm_carries : v2Keynorm.Carries ∧ v4Keynorm.Carries ∧ v5Keynorm.Carries :=
  ⟨trivial, trivial, trivial⟩

theorem witness_PhaseAndErrCodes :
    11 ≤ (11 : BitVec 4).toNat ∧ 11 ≤ (15 : BitVec 4).toNat := by decide

theorem witness_CmdFieldsAreBitRanges :
    0x145001 < 2 ^ (8 + 2 * 8) ∧ 0xFFFFFF < 2 ^ (8 + 2 * 8) ∧ 0xFF < 2 ^ (8 + 2 * 0) := by decide

theorem witness_CmdWordsHaveOneMeaning :
    decodeCmdWord 8 0x145001 = .ok (.compute 80 20) ∧
      decodeCmdWord 8 0xFFFF01 = .ok (.compute 255 255) := ⟨by rfl, by rfl⟩

theorem witness_DecodeUndoesEncode :
    ((Instr.compute 255 255).wf t8 = true ∧ selectedUnder (.compute 255 255) .lt = true) ∧
      (Instr.keynormLong.wf t8 = true ∧ selectedUnder .keynormLong .gt = true) ∧
      (Instr.keynormShort.wf t8 = true ∧ selectedUnder .keynormShort .lt = true) ∧
      (Instr.keynormEqual.wf t8 = true ∧ selectedUnder .keynormEqual .eq = true) ∧
      ((Instr.hashreq 1 [0]).wf t8 = true ∧ selectedUnder (.hashreq 1 [0]) .eq = true) ∧
      ((Instr.hashrsp v2Tag).wf t8 = true ∧ selectedUnder (.hashrsp v2Tag) .eq = true) ∧
      255 < 2 ^ 8 ∧ 0 < 2 ^ 0 := by decide

/-- At LW = 1 the largest length field is 3; 4 is refused. -/
theorem witness_HashFramesAreExact :
    (3 = ([1, 2, 3] : Bytes).length ∧ 1 ≤ 3 ∧ ∀ w, tNarrow.lw = some w → 3 < 2 ^ (w + 1)) ∧
      2 ≠ ([1, 2, 3] : Bytes).length ∧
      (4 = ([1, 2, 3, 4] : Bytes).length ∧ 1 ≤ 4 ∧ tNarrow.lw = some 1 ∧ 2 ^ (1 + 1) ≤ 4) ∧
      v2InnerDigest.length = t8.H ∧ ([0xc6] : Bytes).length ≠ t8.H :=
  ⟨⟨rfl, by decide, fun w h => by cases h; decide⟩, by decide, by decide, by decide, by decide⟩

theorem witness_StepRunsTheSelectedInstruction :
    v2InnerWait.inst.wf = true ∧ (State.withMoves v2InnerWait [.reset]).events = .reset :: [] ∧
      (State.withMoves v2InnerWait [.respond v2InnerDigest]).events = .respond v2InnerDigest :: [] ∧
      (State.withMoves v2InnerWait [.command { op := 0x01, klen := 255, mlen := 255 }]).events =
        .command { op := 0x01, klen := 255, mlen := 255 } :: [] ∧
      (State.withMoves v2InnerWait [.advance, .reset]).events = .advance :: [.reset] ∧
      (t8.wf = true ∧ t2.wf = true) ∧
      (v5Keynorm.events = [] ∧ v5Keynorm.phase = .keynorm ∧ v5Keynorm.inst.B < v5Keynorm.klen) ∧
      (v2Keynorm.events = [] ∧ v2Keynorm.phase = .keynorm ∧ v2Keynorm.klen < v2Keynorm.inst.B) ∧
      (v4Keynorm.events = [] ∧ v4Keynorm.phase = .keynorm ∧ v4Keynorm.klen = v4Keynorm.inst.B) ∧
      (v5KeyhashWait.events = [] ∧ v5KeyhashWait.phase = .keyhashWait) ∧
      (v2Pads.events = [] ∧ v2Pads.phase = .pads) ∧ (v2Inner.events = [] ∧ v2Inner.phase = .inner) ∧
      (v2InnerWait.events = [] ∧ v2InnerWait.phase = .innerWait) ∧
      (v2Outer.events = [] ∧ v2Outer.phase = .outer) ∧
      (v2OuterWait.events = [] ∧ v2OuterWait.phase = .outerWait) ∧
      (v2Idle.events = [] ∧ v2Idle.phase = .idle) ∧ (v2Done.events = [] ∧ v2Done.phase = .done) ∧
      (cFailed.events = [] ∧ cFailed.phase = .failed) ∧
      ((State.resetOf t2).events = [] ∧ (State.resetOf t2).phase = .dead) := by
  decide

theorem witness_SelectorsOfMicroOperations :
    (v5Keynorm.phase = .keynorm ∧ v5Keynorm.inst.B < v5Keynorm.klen) ∧
      (v2Keynorm.phase = .keynorm ∧ v2Keynorm.klen < v2Keynorm.inst.B) ∧
      (v4Keynorm.phase = .keynorm ∧ v4Keynorm.klen = v4Keynorm.inst.B) ∧
      v5KeyhashWait.phase = .keyhashWait ∧ v2Pads.phase = .pads ∧ v2Inner.phase = .inner ∧
      v2InnerWait.phase = .innerWait ∧ v2Outer.phase = .outer ∧ v2OuterWait.phase = .outerWait ∧
      v2Idle.phase = .idle ∧ v2Done.phase = .done ∧ cFailed.phase = .failed ∧
      (State.resetOf t2).phase = .dead := by decide

theorem witness_EngineWaitsUnchanged :
    (v2Idle.inst.wf = true ∧ v2Idle.events = [] ∧ v2Idle.phase = .idle) ∧
      (v2Done.inst.wf = true ∧ v2Done.events = [] ∧ v2Done.phase = .done) ∧
      (cFailed.inst.wf = true ∧ cFailed.events = [] ∧ cFailed.phase = .failed) ∧
      ((State.resetOf t2).inst.wf = true ∧ (State.resetOf t2).events = [] ∧
        (State.resetOf t2).phase = .dead) ∧
      (v2InnerWait.inst.wf = true ∧ (State.withMoves v2InnerWait [.pass]).events = [.pass]) := by decide

theorem witness_HostReadsChangeNothing :
    v2Done.inst.wf = true ∧ (State.withMoves v2Done [.readStatus]).events = [.readStatus] ∧
      (State.withMoves v2Done [.readTag 3]).events = [.readTag 3] ∧ 3 < v2Done.inst.H ∧
      (State.withMoves v2Done [.readTag 4]).events = [.readTag 4] ∧ v2Done.inst.H ≤ 4 := by decide

/-- The key of V2 has one byte: index 1 is not borrowed while busy, index 0 is. -/
theorem witness_HostPlacesBytes :
    v2Idle.inst.wf = true ∧ (State.withMoves v2Idle [.place .key 0 [1]]).events = [.place .key 0 [1]] ∧
      v2Idle.busy = false ∧ v2Inner.borrowed .key ≤ 1 ∧
      v2Inner.busy = true ∧ 0 < v2Inner.borrowed .key ∧ ([1] : Bytes) ≠ [] := by decide

theorem witness_ReservedOpIsIgnored :
    (0x07 : BitVec 8) ≠ 0x01 ∧ v2Inner.inst.wf = true ∧
      (State.withMoves v2Inner [.command { op := 0x07, klen := 0, mlen := 0 }]).events =
        [.command { op := 0x07, klen := 0, mlen := 0 }] := by decide

/-- The longest message that fits, 8 + 56 = 64, and one byte more. -/
theorem witness_ComputeIsAcceptedWhenReady :
    (v2Done.phase = .done ∧ (∀ w, v2Done.inst.lw = some w → 255 < 2 ^ w ∧ 56 < 2 ^ w) ∧
        (∀ cap, v2Done.inst.catCap = some cap → v2Done.inst.B + 56 ≤ cap)) ∧
      (v2Idle.phase = .idle ∧ (∀ w, v2Idle.inst.lw = some w → 0 < 2 ^ w ∧ 57 < 2 ^ w) ∧
        v2Idle.inst.catCap = some 64 ∧ 64 < v2Idle.inst.B + 57) :=
  ⟨⟨rfl, fun w h => by cases h; decide, fun cap h => by cases h; decide⟩,
    rfl, fun w h => by cases h; decide, rfl, by decide⟩

theorem witness_ComputeBusyOrDeadChangesNothing :
    (∀ w, t8.lw = some w → 255 < 2 ^ w ∧ 0 < 2 ^ w) ∧
      (1 ≤ (phaseCode v2Keynorm.phase).toNat ∧ (phaseCode v2Keynorm.phase).toNat ≤ 7) ∧
      (1 ≤ (phaseCode v2OuterWait.phase).toNat ∧ (phaseCode v2OuterWait.phase).toNat ≤ 7) ∧
      (State.resetOf t2).phase = .dead ∧ (State.resetOf t2).err = .invalidHashParameters ∧
      (State.resetOf t2).tagv = false :=
  ⟨fun w h => by cases h; decide, by decide, by decide, rfl, rfl, rfl⟩

/-- Program C: mlen 9 fails, mlen 8 fits. -/
theorem witness_AllocationFailureIsNotRetried :
    phaseReady (State.resetOf t8small).phase = true ∧
      exec (.compute 1 9) (State.resetOf t8small) = .next cFailed ∧ cFailed.phase = .failed ∧
      (t8small.wf = true ∧ (State.resetOf t8small).events = []) ∧
      8 ≤ 9 ∧ t8small.B + 8 ≤ t8small.catCap.getD (t8small.B + 8) :=
  ⟨rfl, test_compute_allocation_failure, rfl, by decide, by decide, by decide⟩

theorem witness_KeynormLongSendsTheKey :
    v5Keynorm.phase = .keynorm ∧ v5Keynorm.inst.B < v5Keynorm.klen ∧ v5Keynorm.hreq = none := by decide

theorem witness_KeyhashRspFillsK0 :
    (v5KeyhashWait.phase = .keyhashWait ∧ v5KeyhashWait.hreq = some v5Key ∧
        v5KeyhashWait.inst.H ≤ v5KeyhashWait.inst.B) ∧
      (w1KeyhashWait.phase = .keyhashWait ∧
        w1KeyhashWait.hreq = some [0xde, 0xad, 0xbe, 0xef, 0x01] ∧
        w1KeyhashWait.inst.H ≤ w1KeyhashWait.inst.B) := by decide

theorem witness_KeynormShortPadsTheKey :
    v2Keynorm.phase = .keynorm ∧ v2Keynorm.klen < v2Keynorm.inst.B := by decide

theorem witness_KeynormEqualCopiesTheKey :
    v4Keynorm.phase = .keynorm ∧ v4Keynorm.klen = v4Keynorm.inst.B := by decide

theorem witness_KeynormFormsExcludeOneAnother :
    (v5Keynorm.phase = .keynorm ∧ v5Keynorm.hreq = none ∧ v5Keynorm.inst.B < v5Keynorm.klen) ∧
      (v2Keynorm.phase = .keynorm ∧ v2Keynorm.hreq = none ∧ v2Keynorm.klen < v2Keynorm.inst.B) ∧
      (v4Keynorm.phase = .keynorm ∧ v4Keynorm.hreq = none ∧ v4Keynorm.klen = v4Keynorm.inst.B) := by
  decide

theorem step_keyhash : step v5KeyhashWait = .next v5Pads := eq_of_isNext (by decide)
theorem step_short : step v2Keynorm = .next v2Pads := eq_of_isNext (by decide)
theorem step_equal : step v4Keynorm = .next v4Pads := eq_of_isNext (by decide)
theorem step_long : step v5Keynorm = .next v5KeyhashWait := eq_of_isNext (by decide)
theorem step_outer : step v2Outer = .next v2OuterWait := eq_of_isNext (by decide)
theorem step_deliver : step v2OuterWait = .next v2Done := eq_of_isNext (by decide)
theorem step_dead : step (State.resetOf t2) = .next (State.resetOf t2) :=
  eq_of_isNext (by decide)

theorem witness_KeyNormalisationPostcondition :
    (v5KeyhashWait.Inv ∧ v5KeyhashWait.Carries ∧ step v5KeyhashWait = .next v5Pads ∧
        v5KeyhashWait.phase ≠ .pads ∧ v5Pads.phase = .pads ∧
        v5KeyhashWait.inst.B < v5KeyhashWait.klen) ∧
      (v2Keynorm.Inv ∧ v2Keynorm.Carries ∧ step v2Keynorm = .next v2Pads ∧
        v2Keynorm.phase ≠ .pads ∧ v2Pads.phase = .pads ∧ v2Keynorm.klen < v2Keynorm.inst.B) ∧
      (v4Keynorm.Inv ∧ v4Keynorm.Carries ∧ step v4Keynorm = .next v4Pads ∧
        v4Keynorm.phase ≠ .pads ∧ v4Pads.phase = .pads ∧ v4Keynorm.klen = v4Keynorm.inst.B) :=
  ⟨⟨keyhashWait_inv, keyhashWait_carries, step_keyhash, by decide, rfl, by decide⟩,
    ⟨keynorm_inv, keynorm_carries.1, step_short, by decide, rfl, by decide⟩,
    ⟨equal_keynorm_inv, keynorm_carries.2.1, step_equal, by decide, rfl, by decide⟩⟩

theorem witness_PadsXorEveryByte : v2Pads.phase = .pads ∧ v2Pads.k0.length = v2Pads.inst.B := by decide

theorem witness_PadsDifferBy6aEverywhere :
    exec .pads v2Pads = .next v2Inner ∧ v2Inner.ipadb[0]? = some 0x37 ∧ v2Inner.opadb[0]? = some 0x5d ∧
      v2Inner.ipadb[7]? = some 0x36 ∧ v2Inner.opadb[7]? = some 0x5c :=
  ⟨test_pads, rfl, rfl, rfl, rfl⟩

theorem witness_InnerReqSendsPadThenMessage :
    v2Inner.phase = .inner ∧ v2Inner.hreq = none ∧ v2Inner.ipadb.length = v2Inner.inst.B := by decide

theorem witness_InnerRspTakesTheDigest :
    v2InnerWait.phase = .innerWait ∧ v2InnerWait.hreq = some v2InnerFrame := by decide

theorem witness_OuterReqSendsPadThenDigest :
    v2Outer.phase = .outer ∧ v2Outer.hreq = none ∧ v2Outer.opadb.length = v2Outer.inst.B ∧
      v2Outer.idig.length = v2Outer.inst.H := by decide

theorem witness_OuterRspDeliversTagAndZeroises :
    v2OuterWait.phase = .outerWait ∧ v2OuterWait.hreq = some v2OuterFrame ∧
      v2OuterWait.err = .noError := by decide

theorem witness_HashreqPassesInTheIssuingStep :
    (v5Keynorm.hreq = none ∧ v5Keynorm.phase = .keynorm ∧ v5Keynorm.inst.B < v5Keynorm.klen ∧
        ∀ w, v5Keynorm.inst.lw = some w → v5Keynorm.klen < 2 ^ (w + 1)) ∧
      (v2Inner.hreq = none ∧ v2Inner.phase = .inner ∧ v2Inner.ipadb.length = v2Inner.inst.B ∧
        1 ≤ v2Inner.inst.B ∧
        ∀ w, v2Inner.inst.lw = some w → v2Inner.inst.B + v2Inner.mlen < 2 ^ (w + 1)) ∧
      (v2Outer.hreq = none ∧ v2Outer.phase = .outer ∧ v2Outer.opadb.length = v2Outer.inst.B ∧
        v2Outer.idig.length = v2Outer.inst.H ∧ 1 ≤ v2Outer.inst.B ∧
        ∀ w, v2Outer.inst.lw = some w → v2Outer.inst.B + v2Outer.inst.H < 2 ^ (w + 1)) ∧
      (v2Inner.hreq = none ∧ v2Inner.inst.lw = some 8 ∧ 2 ^ (8 + 1) ≤ 512) :=
  ⟨⟨rfl, rfl, by decide, fun w h => by cases h; decide⟩,
    ⟨rfl, rfl, rfl, by decide, fun w h => by cases h; decide⟩,
    ⟨rfl, rfl, rfl, rfl, by decide, fun w h => by cases h; decide⟩, rfl, rfl, by decide⟩

theorem witness_HashreqOnlyWhatTheEngineSends :
    exec (.hashreq 9 v2InnerFrame) v2Inner = .next v2InnerWait := test_hashreq

theorem witness_RequestsThatCanOccur :
    (v5Keynorm.Inv ∧ step v5Keynorm = .next v5KeyhashWait ∧ v5Keynorm.hreq = none ∧
        v5KeyhashWait.hreq = some v5Key) ∧
      (v2Inner.Inv ∧ step v2Inner = .next v2InnerWait ∧ v2Inner.hreq = none ∧
        v2InnerWait.hreq = some v2InnerFrame) ∧
      (v2Outer.Inv ∧ step v2Outer = .next v2OuterWait ∧ v2Outer.hreq = none ∧
        v2OuterWait.hreq = some v2OuterFrame) ∧
      (t8.lw = some 8 ∧ t8.B ≤ 2 ^ 8 ∧ t8.B + t8.H < 2 ^ (8 + 1)) :=
  ⟨⟨long_keynorm_inv, step_long, rfl, rfl⟩, ⟨inner_inv, test_step_advance, rfl, rfl⟩,
    ⟨outer_inv, step_outer, rfl, rfl⟩, by decide⟩

theorem witness_HashrspIsTheResponseStep :
    (v5KeyhashWait.hreq = some v5Key ∧ v5KeyhashWait.phase = .keyhashWait) ∧
      (v2InnerWait.hreq = some v2InnerFrame ∧ v2InnerWait.phase = .innerWait) ∧
      (v2OuterWait.hreq = some v2OuterFrame ∧ v2OuterWait.phase = .outerWait) := by decide

theorem witness_HashrspOutsideTheContractStops :
    exec (.hashrsp v2InnerDigest) v2InnerWait = .next v2Outer ∧ v2Outer.hreq = none ∧
      v2InnerWait.hreq = some v2InnerFrame ∧ [0xc6, 0x74, 0xef].length ≠ v2InnerWait.inst.H :=
  ⟨test_hashrsp, rfl, rfl, by decide⟩

/-- `H = B`, `H < B` and `H > B`. -/
theorem witness_ResetLeavesTheResetState :
    v2InnerWait.inst.H ≤ v2InnerWait.inst.B ∧ w1KeyhashWait.inst.H ≤ w1KeyhashWait.inst.B ∧
      (State.resetOf t2).inst.B < (State.resetOf t2).inst.H ∧
      v2InnerWait.inst.wf = true ∧ v2InnerWait.events = [] := by decide

theorem witness_ResetValues : t4.H ≤ t4.B ∧ t8.H ≤ t8.B ∧ t2.B < t2.H := by decide

theorem witness_StatusFormat :
    (v2Idle.Inv ∧ v2Idle.phase = .idle) ∧ (v2Keynorm.Inv ∧ v2Keynorm.phase = .keynorm) ∧
      (v5KeyhashWait.Inv ∧ v5KeyhashWait.phase = .keyhashWait) ∧
      (v2Pads.Inv ∧ v2Pads.phase = .pads) ∧ (v2Inner.Inv ∧ v2Inner.phase = .inner) ∧
      (v2InnerWait.Inv ∧ v2InnerWait.phase = .innerWait) ∧ (v2Outer.Inv ∧ v2Outer.phase = .outer) ∧
      (v2OuterWait.Inv ∧ v2OuterWait.phase = .outerWait) ∧ (v2Done.Inv ∧ v2Done.phase = .done) ∧
      (cFailed.Inv ∧ cFailed.phase = .failed) ∧
      ((State.resetOf t2).Inv ∧ (State.resetOf t2).phase = .dead) :=
  ⟨⟨idle_inv, rfl⟩, ⟨keynorm_inv, rfl⟩, ⟨keyhashWait_inv, rfl⟩, ⟨pads_inv, rfl⟩, ⟨inner_inv, rfl⟩,
    ⟨innerWait_inv, rfl⟩, ⟨outer_inv, rfl⟩, ⟨outerWait_inv, rfl⟩, ⟨done_inv, rfl⟩, ⟨failed_inv, rfl⟩,
    ⟨dead_inv, rfl⟩⟩

theorem witness_FlagsFollowPhase : v2Inner.Inv ∧ v2Inner.busy = true := ⟨inner_inv, by decide⟩

theorem witness_TagReadsExactlyH :
    (v2Done.Inv ∧ v2Done.inst.H ≤ 4 ∧ 3 < v2Done.inst.H) ∧
      (v2Idle.Inv ∧ 3 < v2Idle.inst.H ∧ v2Idle.tagv = false) :=
  ⟨⟨done_inv, by decide, by decide⟩, idle_inv, by decide, rfl⟩

theorem witness_StepKeepsTheInvariant : v2OuterWait.Inv ∧ step v2OuterWait = .next v2Done :=
  ⟨outerWait_inv, step_deliver⟩

theorem witness_StepKeepsTheReferenceValues :
    v5KeyhashWait.Inv ∧ v5KeyhashWait.Carries ∧ step v5KeyhashWait = .next v5Pads :=
  ⟨keyhashWait_inv, keyhashWait_carries, step_keyhash⟩

theorem witness_CompletionDeliversHmac :
    v2OuterWait.Inv ∧ v2OuterWait.Carries ∧ step v2OuterWait = .next v2Done ∧
      v2OuterWait.phase = .outerWait ∧ v2Done.phase = .done :=
  ⟨outerWait_inv, outerWait_carries, step_deliver, rfl, rfl⟩

/-- `klen = B` and `klen = B + 1`, with the longest message that fits. -/
theorem witness_InvocationComputesHmac :
    let s (k : Nat) := State.withMoves v2Done [.command { op := 0x01, klen := k, mlen := 56 }]
    (∀ k, (s k).Inv ∧ (s k).inst.wf = true ∧ (s k).inst.H ≤ (s k).inst.B ∧ (s k).busy = false ∧
      (s k).events = [.command { op := 0x01, klen := k, mlen := 56 }] ∧
      (∀ cap, (s k).inst.catCap = some cap → (s k).inst.B + 56 ≤ cap)) ∧
    (∀ w, t8.lw = some w → 8 < 2 ^ w ∧ 9 < 2 ^ w ∧ 56 < 2 ^ w) ∧ t8.B = 8 := by
  refine ⟨fun k => ⟨inv_of_check ?_, rfl, show 4 ≤ 8 by decide, rfl, rfl, ?_⟩, ?_, rfl⟩
  · show invCheck v2Done = true
    decide
  · intro cap h
    cases h
    show 8 + 56 ≤ 64
    decide
  · intro w h
    cases h
    decide

theorem witness_NoOtherTransition :
    (nextEvent (State.withMoves v2InnerWait [.reset]) = .reset ∧
        step (State.withMoves v2InnerWait [.reset]) = .next v2Idle) ∧
      (nextEvent v2OuterWait ≠ .reset ∧ step v2OuterWait = .next v2Done) ∧
      (nextEvent v2Idle ≠ .reset ∧ step v2Idle = .next v2Idle) :=
  ⟨⟨rfl, eq_of_isNext (by decide)⟩, ⟨by decide, step_deliver⟩, by decide,
    eq_of_isNext (by decide)⟩

theorem witness_FailedOnlyByCapacity :
    exec (.compute 1 9) (State.resetOf t8small) = .next cFailed ∧ cFailed.phase = .failed ∧
      (State.resetOf t8small).phase ≠ .failed :=
  ⟨test_compute_allocation_failure, rfl, by decide⟩

theorem witness_DeadIsForEver :
    (State.resetOf t2).Inv ∧ (State.resetOf t2).phase = .dead ∧
      step (State.resetOf t2) = .next (State.resetOf t2) ∧
      (State.withMoves (State.resetOf t2) [.reset]).Inv ∧
      step (State.withMoves (State.resetOf t2) [.reset]) = .next (State.resetOf t2) :=
  ⟨dead_inv, rfl, step_dead, inv_of_check (by decide), eq_of_isNext (by decide)⟩

theorem witness_EngineNeverWritesCallerSpaces : exec .outerRsp v2OuterWait = .next v2Done :=
  test_outer_rsp

theorem witness_BorrowedBytesStay :
    v2Inner.busy = true ∧ step v2Inner = .next v2InnerWait ∧ 0 < v2Inner.borrowed .key ∧
      0 < v2Inner.borrowed .msg := ⟨by decide, test_step_advance, by decide, by decide⟩

theorem witness_ParametersNeverChange : step v2OuterWait = .next v2Done := step_deliver

theorem witness_StepKeepsMemoryCanonical :
    Memory.wf v2Inner.keyMem = true ∧ Memory.wf v2Inner.msgMem = true ∧
      step v2Inner = .next v2InnerWait := ⟨rfl, rfl, test_step_advance⟩

theorem witness_MicroOperationsNeedTheirSelector :
    exec .keynormLong v5Keynorm = .next v5KeyhashWait ∧ exec .keynormShort v2Keynorm = .next v2Pads ∧
      exec .keynormEqual v4Keynorm = .next v4Pads ∧ exec .keyhashRsp v5KeyhashWait = .next v5Pads ∧
      exec .pads v2Pads = .next v2Inner ∧ exec .innerReq v2Inner = .next v2InnerWait ∧
      exec .innerRsp v2InnerWait = .next v2Outer ∧ exec .outerReq v2Outer = .next v2OuterWait ∧
      exec .outerRsp v2OuterWait = .next v2Done :=
  ⟨test_keynorm_long, test_keynorm_short, test_keynorm_equal, test_keyhash_rsp, test_pads,
    test_inner_req, test_inner_rsp, test_outer_req, test_outer_rsp⟩

theorem witness_WhoWritesTagAndErr :
    (exec (.compute 1 9) (State.resetOf t8small) = .next cFailed ∧
        cFailed.err ≠ (State.resetOf t8small).err) ∧
      (exec .outerRsp v2OuterWait = .next v2Done ∧ v2Done.tag ≠ v2OuterWait.tag) ∧
      (exec (.hashrsp v2Tag) v2OuterWait = .next v2Done ∧ v2Done.tagv ≠ v2OuterWait.tagv) ∧
      (exec .reset v2Done = .next v2Idle ∧ v2Idle.tagv ≠ v2Done.tagv) :=
  ⟨⟨test_compute_allocation_failure, by decide⟩, ⟨test_outer_rsp, by decide⟩,
    ⟨test_hashrsp_delivers_tag, by decide⟩, eq_of_isNext (by decide), by decide⟩

/-- Two invocations alike but for the key byte and what follows from it, at PADS; and in OUTER_WAIT, where
time passes and nothing is delivered. -/
theorem witness_HostSeesNoSecretBeforeTheTag :
    let s := v2Pads
    let s' := { v2Pads with keyMem := [(0, 0x02)], k0 := [0x02, 0, 0, 0, 0, 0, 0, 0] }
    let w := State.withMoves v2OuterWait [.pass]
    let w' := { w with keyMem := [(0, 0x02)], hreq := some [0x02] }
    (SameButSecrets s s' ∧
        ¬ (s.phase = .outerWait ∧ (nextEvent s = .advance ∨ ∃ g, nextEvent s = .respond g)) ∧
        step s = .next v2Inner ∧ ∃ t', step s' = .next t') ∧
      (SameButSecrets w w' ∧
        ¬ (w.phase = .outerWait ∧ (nextEvent w = .advance ∨ ∃ g, nextEvent w = .respond g)) ∧
        step w = .next v2OuterWait ∧ ∃ t', step w' = .next t') := by
  refine ⟨⟨⟨rfl, rfl, rfl, rfl, rfl, rfl, rfl, rfl, rfl⟩, fun h => ?_, eq_of_isNext (by decide), _, rfl⟩,
    ⟨⟨rfl, rfl, rfl, rfl, rfl, rfl, rfl, rfl, rfl⟩, fun h => ?_, eq_of_isNext (by decide), _, rfl⟩⟩
  · exact absurd h.1 (by decide)
  · rcases h.2 with h | ⟨g, h⟩ <;> cases h

/-- `len(key)` just below `B`, at `B`, and above it. -/
theorem witness_KeysWithTheSameTag :
    ([0x00] : Bytes) ≠ [] ∧ (v5Key.take 8).length ≤ t8.B ∧ (v5Key.take 7).length + 1 ≤ t8.B ∧
      t8.H ≤ t8.B ∧ t8.B < v5Key.length := by decide

end Sys2Proof.Tests
end

section
/-! SUPPORT. The parameters of an engine are constants (R2, R28). -/

namespace Sys2Proof.Machine

/-- Settles O49: an instruction's effect, the HOST's placing of bytes, and a move without effect all
leave the parameters alone. -/
theorem parametersNeverChange : Obligations.ParametersNeverChange := by
  intro s t h
  rcases step_effect h with ⟨i, -, he⟩ | ⟨sp, i, bs, -, rfl, -⟩ | ⟨-, rfl⟩
  · exact (effect_surroundings he).1
  · exact State.setSpace_inst _ _ _
  · rfl

end Sys2Proof.Machine
end

section
/-! SUPPORT. The values an invocation carries (R63): what `Carries` says in each phase, and that every
instruction keeps it. -/

namespace Sys2Proof.Machine

variable {s t : State}

/-- `K0` of R9 fills one block, where a digest fits a block. -/
theorem blockSizedKey_length {c : Inst} (h : c.H ≤ c.B) (key : Bytes) :
    (blockSizedKey c key).length = c.B := by
  unfold blockSizedKey
  split
  · simp; omega
  · split
    · simp; omega
    · omega

theorem carries_keynorm (h : s.phase = .keynorm) : s.Carries := by
  simp [State.Carries, h]

theorem carries_keyhashWait (h : s.phase = .keyhashWait) :
    s.Carries ↔ s.inst.B < s.klen ∧ s.hreq = some s.keyBytes := by
  simp [State.Carries, h]

theorem carries_pads (h : s.phase = .pads) :
    s.Carries ↔ s.k0 = blockSizedKey s.inst s.keyBytes := by
  simp [State.Carries, h]

theorem carries_inner (h : s.phase = .inner) :
    s.Carries ↔
      s.ipadb = List.zipWith (· ^^^ ·) (blockSizedKey s.inst s.keyBytes) (rep 0x36 s.inst.B) ∧
      s.opadb = List.zipWith (· ^^^ ·) (blockSizedKey s.inst s.keyBytes) (rep 0x5c s.inst.B) := by
  simp [State.Carries, h]

theorem carries_innerWait (h : s.phase = .innerWait) :
    s.Carries ↔ s.hreq = some (innerRequest s.inst s.keyBytes s.msgBytes) ∧
      s.opadb = List.zipWith (· ^^^ ·) (blockSizedKey s.inst s.keyBytes) (rep 0x5c s.inst.B) := by
  simp [State.Carries, h]

theorem carries_outer (h : s.phase = .outer) :
    s.Carries ↔ s.opadb ++ s.idig = outerRequest s.inst s.keyBytes s.msgBytes := by
  simp [State.Carries, h]

theorem carries_outerWait (h : s.phase = .outerWait) :
    s.Carries ↔ s.hreq = some (outerRequest s.inst s.keyBytes s.msgBytes) := by
  simp [State.Carries, h]

theorem carries_of_not_busy (h : s.busy = false) : s.Carries := by
  unfold State.Carries
  unfold State.busy at h
  split <;> simp_all [phaseBusy, phaseCode]

/-- Every instruction keeps the values R9 names, provided `K0` fills its block where the pads are built
from it. -/
theorem effect_carries {i : Instr} (hk0 : s.phase = .pads → s.k0.length = s.inst.B)
    (hc : s.Carries) (h : Effect s t i) : t.Carries := by
  cases h with
  | ignored k m h e => exact e ▸ hc
  | started k m h hf hcap e => exact carries_keynorm (by rw [e]; rfl)
  | failed k m h hcap e => exact carries_of_not_busy (by rw [e]; rfl)
  | keySent i hi h hk hq e =>
    subst e
    exact (carries_keyhashWait rfl).2 ⟨hk, rfl⟩
  | keyPadded h hk e =>
    subst e
    refine (carries_pads rfl).2 ?_
    show s.keyBytes ++ zeros (s.inst.B - s.klen) = blockSizedKey s.inst s.keyBytes
    simp [blockSizedKey, hk, Nat.lt_asymm hk]
  | keyCopied h hk e =>
    subst e
    refine (carries_pads rfl).2 ?_
    show s.keyBytes = blockSizedKey s.inst s.keyBytes
    simp [blockSizedKey, hk]
  | keyDigest i q hi h hq e =>
    subst e
    obtain ⟨hk, hreq⟩ := (carries_keyhashWait h).1 hc
    obtain rfl : q = s.keyBytes := Option.some.inj (hq.symm.trans hreq)
    refine (carries_pads rfl).2 ?_
    show hashOf s.inst s.keyBytes ++ zeros (s.inst.B - s.inst.H) = blockSizedKey s.inst s.keyBytes
    simp [blockSizedKey, hk]
  | padded h e =>
    subst e
    refine (carries_inner rfl).2 ?_
    show xorEach ipadByte s.k0 =
        List.zipWith (· ^^^ ·) (blockSizedKey s.inst s.keyBytes) (rep 0x36 s.inst.B) ∧
      xorEach opadByte s.k0 =
        List.zipWith (· ^^^ ·) (blockSizedKey s.inst s.keyBytes) (rep 0x5c s.inst.B)
    rw [← (carries_pads h).1 hc, ← hk0 h]
    exact ⟨(zipWith_rep_eq_xorEach _ _).symm, (zipWith_rep_eq_xorEach _ _).symm⟩
  | innerSent i hi h hq e =>
    subst e
    obtain ⟨hip, hop⟩ := (carries_inner h).1 hc
    exact (carries_innerWait rfl).2 ⟨congrArg (fun b => some (b ++ s.msgBytes)) hip, hop⟩
  | innerDigest i q hi h hq e =>
    subst e
    obtain ⟨hreq, hop⟩ := (carries_innerWait h).1 hc
    obtain rfl := Option.some.inj (hq.symm.trans hreq)
    exact (carries_outer rfl).2 (congrArg (· ++ hashOf s.inst _) hop)
  | outerSent i hi h hq e =>
    subst e
    exact (carries_outerWait rfl).2 (congrArg some ((carries_outer h).1 hc))
  | delivered i q hi h hq e => exact carries_of_not_busy (by rw [e]; rfl)
  | wasReset e =>
    refine carries_of_not_busy ?_
    subst e
    show phaseBusy (configPhase s.inst) = false
    unfold configPhase
    split <;> rfl

end Sys2Proof.Machine
end

section
/-! SUPPORT. One invocation from its acceptance to the delivery of its tag (R63, R144). -/

namespace Sys2Proof.Machine

variable {s u t : State} {i : Instr}

/-- `u` is on the way of the invocation that began in `s`, with no move scheduled: the key, the message
and the parameters are those of `s`, and the buffers carry the values R9 names. -/
structure Invocation (s u : State) : Prop where
  domain : u.inst.wf = true
  valid : u.inst.H ≤ u.inst.B
  quiet : u.events = []
  inst : u.inst = s.inst
  keyMem : u.keyMem = s.keyMem
  msgMem : u.msgMem = s.msgMem
  klen : u.klen = s.klen
  mlen : u.mlen = s.mlen
  noError : u.err = .noError
  request : u.hreq.isSome = phaseWaits u.phase
  carries : u.Carries

/-- `t` is a state in which the invocation that began in `s` has delivered its tag (R91). -/
structure Delivered (s t : State) : Prop where
  phase : t.phase = .done
  tagv : t.tagv = true
  status : t.status = 0x48
  zeroed : t.Zeroed
  request : t.hreq = none
  tag : t.tag = hmac s.inst s.keyBytes s.msgBytes
  memory : SameMemory s t

/-! ### Reading the caller spaces -/

/-- Equal contents of both spaces read alike, byte for byte. -/
theorem sameMemory_of_eq (hk : t.keyMem = s.keyMem) (hm : t.msgMem = s.msgMem) : SameMemory s t := by
  intro sp j
  cases sp
  · exact congrArg (Memory.read · j) hk
  · exact congrArg (Memory.read · j) hm

theorem Invocation.keyBytes (hu : Invocation s u) : u.keyBytes = s.keyBytes := by
  unfold State.keyBytes
  rw [hu.klen]
  exact memRead_congr fun j _ => sameMemory_of_eq hu.keyMem hu.msgMem .key (0 + j)

theorem Invocation.msgBytes (hu : Invocation s u) : u.msgBytes = s.msgBytes := by
  unfold State.msgBytes
  rw [hu.mlen]
  exact memRead_congr fun j _ => sameMemory_of_eq hu.keyMem hu.msgMem .msg (0 + j)

/-! ### What keeps an invocation -/

theorem phaseBusy_of_ready {p : Phase} (h : phaseReady p = true) : phaseBusy p = false := by
  rcases phaseReady_iff.1 h with rfl | rfl | rfl <;> rfl

/-- `PHASE` selects a micro-operation only while busy, and never a reset (R59). -/
theorem microOp_ok {p : Phase} {cmp : Ordering} (h : microOp p cmp = .ok i) :
    phaseBusy p = true ∧ i ≠ .reset := by
  cases p
  case keynorm => cases cmp <;> cases h <;> exact ⟨rfl, nofun⟩
  all_goals cases h <;> exact ⟨rfl, nofun⟩

/-- A request is outstanding in no phase but the three that wait (R25). -/
theorem Invocation.hreq_eq_none (hu : Invocation s u) (h : phaseWaits u.phase = false) :
    u.hreq = none :=
  Option.not_isSome_iff_eq_none.1 (by rw [hu.request, h]; decide)

theorem Invocation.exists_hreq (hu : Invocation s u) (h : phaseWaits u.phase = true) :
    ∃ q, u.hreq = some q :=
  Option.isSome_iff_exists.1 (hu.request.trans h)

/-- While an invocation runs, no instruction but a reset and the delivery of the tag changes its lengths
or its error, and a request is outstanding exactly in the wait phases. -/
theorem Invocation.effect_registers (hu : Invocation s u) (hb : u.busy = true)
    (hp : u.phase ≠ .outerWait) (hi : i ≠ .reset) (h : Effect u t i) :
    t.klen = u.klen ∧ t.mlen = u.mlen ∧ t.err = u.err ∧ t.hreq.isSome = phaseWaits t.phase := by
  cases h with
  | ignored k m h e => subst e; exact ⟨rfl, rfl, rfl, hu.request⟩
  | started k m h hf hcap e => exact absurd hb (by simp [State.busy, phaseBusy_of_ready h])
  | failed k m h hcap e => exact absurd hb (by simp [State.busy, phaseBusy_of_ready h])
  | keySent i hi h hk hq e => subst e; exact ⟨rfl, rfl, rfl, rfl⟩
  | keyPadded h hk e => subst e; exact ⟨rfl, rfl, rfl, hu.request.trans (by rw [h]; rfl)⟩
  | keyCopied h hk e => subst e; exact ⟨rfl, rfl, rfl, hu.request.trans (by rw [h]; rfl)⟩
  | keyDigest i q hi h hq e => subst e; exact ⟨rfl, rfl, rfl, rfl⟩
  | padded h e => subst e; exact ⟨rfl, rfl, rfl, hu.request.trans (by rw [h]; rfl)⟩
  | innerSent i hi h hq e => subst e; exact ⟨rfl, rfl, rfl, rfl⟩
  | innerDigest i q hi h hq e => subst e; exact ⟨rfl, rfl, rfl, rfl⟩
  | outerSent i hi h hq e => subst e; exact ⟨rfl, rfl, rfl, rfl⟩
  | delivered i q hi h hq e => exact absurd h hp
  | wasReset e => exact absurd rfl hi

theorem Invocation.effect (hu : Invocation s u) (hb : u.busy = true) (hp : u.phase ≠ .outerWait)
    (hi : i ≠ .reset) (h : Effect u t i) : Invocation s t := by
  obtain ⟨hinst, hkey, hmsg, hev⟩ := effect_surroundings h
  obtain ⟨hklen, hmlen, herr, hreq⟩ := hu.effect_registers hb hp hi h
  have hk0 : u.phase = .pads → u.k0.length = u.inst.B := fun hpads => by
    rw [(carries_pads hpads).1 hu.carries, blockSizedKey_length hu.valid]
  exact {
    domain := hinst ▸ hu.domain
    valid := hinst ▸ hu.valid
    quiet := hev.trans hu.quiet
    inst := hinst.trans hu.inst
    keyMem := hkey.trans hu.keyMem
    msgMem := hmsg.trans hu.msgMem
    klen := hklen.trans hu.klen
    mlen := hmlen.trans hu.mlen
    noError := herr.trans hu.noError
    request := hreq
    carries := effect_carries hk0 hu.carries h }

/-- With no move scheduled, a step is the micro-operation the selector names (R59). -/
theorem Invocation.step_selected (hu : Invocation s u) (hi : microOp u.phase u.klenCmp = .ok i)
    (hx : exec i u = .next t) : step u = .next t :=
  step_advance hu.domain hu.quiet (by rw [eventInstr_advance, hi]; rfl) hx

/-- Before the tag is delivered, the selected micro-operation keeps the invocation. -/
theorem Invocation.advance (hu : Invocation s u) (hi : microOp u.phase u.klenCmp = .ok i)
    (hx : exec i u = .next t) (hp : u.phase ≠ .outerWait) : step u = .next t ∧ Invocation s t :=
  have ⟨hb, hr⟩ := microOp_ok hi
  ⟨hu.step_selected hi hx, hu.effect hb hp hr (exec_effect hx)⟩

/-! ### The steps of an invocation, one per phase (R13) -/

/-- The next step keeps the invocation and enters phase `p`. -/
def StepsTo (s u : State) (p : Phase) : Prop :=
  ∃ t, step u = .next t ∧ Invocation s t ∧ t.phase = p

/-- The shape of every step below: the micro-operation selected, the state it answers, and its phase. -/
theorem Invocation.stepsTo {p : Phase} (hu : Invocation s u)
    (hi : microOp u.phase u.klenCmp = .ok i) (hx : exec i u = .next t) (hp : u.phase ≠ .outerWait)
    (ht : t.phase = p) : StepsTo s u p :=
  have ⟨hs, hinv⟩ := hu.advance hi hx hp
  ⟨t, hs, hinv, ht⟩

theorem Invocation.keynormLong_step (hu : Invocation s u) (hp : u.phase = .keynorm)
    (hk : u.inst.B < u.klen) : StepsTo s u .keyhashWait :=
  hu.stepsTo (by rw [hp, klenCmp_gt.2 hk]; rfl)
    (execKeynormLong_next.2 ⟨hp, hk, hu.hreq_eq_none (by rw [hp]; rfl), rfl⟩) (by simp [hp]) rfl

theorem Invocation.keyhashRsp_step (hu : Invocation s u) (hp : u.phase = .keyhashWait) :
    StepsTo s u .pads :=
  have ⟨q, hq⟩ := hu.exists_hreq (by rw [hp]; rfl)
  hu.stepsTo (by rw [hp]; rfl) (execKeyhashRsp_next.2 ⟨hp, q, hq, rfl⟩) (by simp [hp]) rfl

/-- A key of at most one block is padded or taken as it is (R73, R74). -/
theorem Invocation.keynormBlock_step (hu : Invocation s u) (hp : u.phase = .keynorm)
    (hk : u.klen ≤ u.inst.B) : StepsTo s u .pads := by
  rcases Nat.lt_or_eq_of_le hk with hlt | heq
  · exact hu.stepsTo (by rw [hp, klenCmp_lt.2 hlt]; rfl) (execKeynormShort_next.2 ⟨hp, hlt, rfl⟩)
      (by simp [hp]) rfl
  · exact hu.stepsTo (by rw [hp, klenCmp_eq.2 heq]; rfl) (execKeynormEqual_next.2 ⟨hp, heq, rfl⟩)
      (by simp [hp]) rfl

theorem Invocation.pads_step (hu : Invocation s u) (hp : u.phase = .pads) : StepsTo s u .inner :=
  hu.stepsTo (by rw [hp]; rfl) (execPads_next.2 ⟨hp, rfl⟩) (by simp [hp]) rfl

theorem Invocation.innerReq_step (hu : Invocation s u) (hp : u.phase = .inner) :
    StepsTo s u .innerWait :=
  hu.stepsTo (by rw [hp]; rfl)
    (execInnerReq_next.2 ⟨hp, hu.hreq_eq_none (by rw [hp]; rfl), rfl⟩) (by simp [hp]) rfl

theorem Invocation.innerRsp_step (hu : Invocation s u) (hp : u.phase = .innerWait) :
    StepsTo s u .outer :=
  have ⟨q, hq⟩ := hu.exists_hreq (by rw [hp]; rfl)
  hu.stepsTo (by rw [hp]; rfl) (execInnerRsp_next.2 ⟨hp, q, hq, rfl⟩) (by simp [hp]) rfl

theorem Invocation.outerReq_step (hu : Invocation s u) (hp : u.phase = .outer) :
    StepsTo s u .outerWait :=
  hu.stepsTo (by rw [hp]; rfl)
    (execOuterReq_next.2 ⟨hp, hu.hreq_eq_none (by rw [hp]; rfl), rfl⟩) (by simp [hp]) rfl

/-- The last step delivers HMAC(key, msg): the outstanding request is the outer one of R9. -/
theorem Invocation.outerRsp_step (hu : Invocation s u) (hp : u.phase = .outerWait) :
    ∃ t, step u = .next t ∧ Delivered s t := by
  have hq := (carries_outerWait hp).1 hu.carries
  refine ⟨_, hu.step_selected (by rw [hp]; rfl) (execOuterRsp_next.2 ⟨hp, _, hq, rfl⟩), ?_⟩
  exact {
    phase := rfl
    tagv := rfl
    status := by
      rw [status_eq]
      simp only [storeTag, State.setPhase_phase, State.setPhase_tagv, State.setPhase_err,
        State.zeroise_tagv, State.zeroise_err, State.setTag_tagv, State.setTag_err,
        State.setHreq_err, hu.noError]
      decide
    zeroed := ⟨rfl, rfl, rfl, rfl, rfl, rfl, rfl, rfl⟩
    request := rfl
    tag := by
      rw [hu.inst, hu.keyBytes, hu.msgBytes]
      rfl
    memory := sameMemory_of_eq hu.keyMem hu.msgMem }

/-! ### The run -/

/-- A run is its first step and the run from there. -/
theorem run_succ {n : Nat} (h : step s = .next u) :
    Sys2Proof.core.run (n + 1) s = Sys2Proof.core.run n u := by
  have hcore : Sys2Proof.core.step s = .next u := h
  simp only [Host.Core.run, hcore]

/-- From PADS, five steps deliver the tag. -/
theorem Invocation.run_from_pads (hu : Invocation s u) (hp : u.phase = .pads) :
    ∃ t, Sys2Proof.core.run 5 u = .next t ∧ Delivered s t := by
  obtain ⟨u1, h1, i1, p1⟩ := hu.pads_step hp
  obtain ⟨u2, h2, i2, p2⟩ := i1.innerReq_step p1
  obtain ⟨u3, h3, i3, p3⟩ := i2.innerRsp_step p2
  obtain ⟨u4, h4, i4, p4⟩ := i3.outerReq_step p3
  obtain ⟨t, h5, ht⟩ := i4.outerRsp_step p4
  refine ⟨t, ?_, ht⟩
  rw [run_succ h1, run_succ h2, run_succ h3, run_succ h4, run_succ h5]
  rfl

/-- From KEYNORM, six steps deliver the tag, and one more for a key longer than a block (R144). -/
theorem Invocation.run_from_keynorm (hu : Invocation s u) (hp : u.phase = .keynorm) :
    ∃ t, Sys2Proof.core.run (if u.inst.B < u.klen then 7 else 6) u = .next t ∧ Delivered s t := by
  split
  · next hlong =>
    obtain ⟨u1, h1, i1, p1⟩ := hu.keynormLong_step hp hlong
    obtain ⟨u2, h2, i2, p2⟩ := i1.keyhashRsp_step p1
    obtain ⟨t, hrun, ht⟩ := i2.run_from_pads p2
    exact ⟨t, by rw [run_succ h1, run_succ h2, hrun], ht⟩
  · next hblock =>
    obtain ⟨u1, h1, i1, p1⟩ := hu.keynormBlock_step hp (Nat.le_of_not_lt hblock)
    obtain ⟨t, hrun, ht⟩ := i1.run_from_pads p1
    exact ⟨t, by rw [run_succ h1, hrun], ht⟩

/-! ### Acceptance -/

/-- A state of the invariant with `H <= B` that is not busy is ready for a command (R13, R60). -/
theorem State.Inv.ready (hs : s.Inv) (hv : s.inst.H ≤ s.inst.B) (hb : s.busy = false) :
    phaseReady s.phase = true := by
  have hdead : s.phase ≠ .dead := fun h => absurd (hs.dead.1 h) (Nat.not_lt.2 hv)
  revert hb hdead
  unfold State.busy
  cases s.phase <;> decide

/-- The state in which a presented COMPUTE that fits has been accepted (R62). -/
def accepted (s : State) (klen mlen : Nat) : State :=
  ((((afterEvent s).clearTag).setErr .noError).setLens klen mlen).setPhase .keynorm

theorem step_accepts {klen mlen : Nat} {es : List Event} (hw : s.inst.wf = true)
    (hr : phaseReady s.phase = true)
    (hf : s.inst.lengthFits klen = true ∧ s.inst.lengthFits mlen = true)
    (hc : capacityExceeded s.inst mlen = false)
    (he : s.events = .command { op := computeOp, klen := klen, mlen := mlen } :: es) :
    step s = .next (accepted s klen mlen) := by
  have hnext : nextEvent s = .command { op := computeOp, klen := klen, mlen := mlen } := by
    simp [nextEvent, he]
  have hacc : acceptCompute klen mlen (afterEvent s) = accepted s klen mlen :=
    if_neg (Bool.eq_false_iff.1 hc)
  refine step_next.2 ⟨hw, .inl ⟨.compute klen mlen, ?_, execCompute_next.2 ⟨hf, ?_⟩⟩⟩
  · rw [hnext, eventInstr_command, if_pos rfl]
  · rw [hacc]
    exact (if_pos hr).symm

/-- With no move after the command, an accepted COMPUTE begins an invocation. -/
theorem accepted_invocation {klen mlen : Nat} (hs : s.Inv) (hw : s.inst.wf = true)
    (hv : s.inst.H ≤ s.inst.B) (hr : phaseReady s.phase = true) (he : s.events.tail = []) :
    Invocation (accepted s klen mlen) (accepted s klen mlen) where
  domain := hw
  valid := hv
  quiet := he
  inst := rfl
  keyMem := rfl
  msgMem := rfl
  klen := rfl
  mlen := rfl
  noError := rfl
  request := hs.request.trans (by rcases phaseReady_iff.1 hr with h | h | h <;> rw [h] <;> rfl)
  carries := carries_keynorm rfl

/-- Settles O43: the acceptance begins an invocation, every micro-operation keeps it, and the delivery
ends it. -/
theorem invocationComputesHmac : Obligations.InvocationComputesHmac := by
  intro s klen mlen hs hw hv hb hlens hcap he
  have hr := hs.ready hv hb
  have hstep : step s = .next (accepted s klen mlen) :=
    step_accepts hw hr
      ⟨lengthFits_iff.2 fun w h => (hlens w h).1, lengthFits_iff.2 fun w h => (hlens w h).2⟩
      (capacityExceeded_eq_false.2 hcap) he
  obtain ⟨t, hrun, ht⟩ :=
    (accepted_invocation (klen := klen) (mlen := mlen) hs hw hv hr (by rw [he]; rfl)).run_from_keynorm
      rfl
  have hrun' : Sys2Proof.core.run (if s.inst.B < klen then 8 else 7) s = .next t := by
    rw [← hrun, ← run_succ hstep]
    show _ = Sys2Proof.core.run ((if s.inst.B < klen then 7 else 6) + 1) s
    split <;> rfl
  exact ⟨t, hrun', ht.phase, ht.tagv, ht.status, ht.zeroed, ht.request, ht.tag, ht.memory⟩

end Sys2Proof.Machine
end

section
/-! SUPPORT. What a move selects, and the step it makes (R12, R13, R59). -/

namespace Sys2Proof.Machine

variable {s t : State} {i : Instr} {e : Event} {es : List Event}

theorem nextEvent_cons (h : s.events = e :: es) : nextEvent s = e := by
  simp [nextEvent, h]

theorem afterEvent_cons (h : s.events = e :: es) : afterEvent s = { s with events := es } := by
  rw [afterEvent_eq, h]
  rfl

/-- A move that runs an instruction steps to what the instruction answers. -/
theorem step_runs (hw : s.inst.wf = true) (h : eventInstr (nextEvent s) (afterEvent s) = some i) :
    step s = exec i (afterEvent s) := by
  unfold step
  rw [if_pos hw, h]

theorem step_cons_runs (hw : s.inst.wf = true) (h : s.events = e :: es)
    (hi : eventInstr e { s with events := es } = some i) : step s = exec i { s with events := es } := by
  rw [← afterEvent_cons h] at hi ⊢
  exact step_runs hw (by rw [nextEvent_cons h, hi])

/-- A move that runs no instruction steps to its own effect. -/
theorem step_moves (hw : s.inst.wf = true) (h : eventInstr (nextEvent s) (afterEvent s) = none) :
    step s = moveWithoutInstr (nextEvent s) (afterEvent s) := by
  unfold step
  rw [if_pos hw, h]

/-- The move that runs a given instruction: `advance` the selected micro-operation, a response, a command
or a reset its own. -/
theorem eventInstr_eq_some :
    eventInstr e s = some i ↔
      (e = .advance ∧ microOp s.phase s.klenCmp = .ok i) ∨ (∃ g, e = .respond g ∧ i = .hashrsp g) ∨
      (∃ d, e = .command d ∧ d.op = computeOp ∧ i = .compute d.klen d.mlen) ∨
      (e = .reset ∧ i = .reset) := by
  cases e with
  | advance =>
    rw [eventInstr_advance]
    cases microOp s.phase s.klenCmp <;> simp [Except.toOption]
  | respond g => simp [eventInstr, eq_comm]
  | command d =>
    rw [eventInstr_command]
    split <;> simp_all [eq_comm]
  | reset => simp [eventInstr, eq_comm]
  | place sp j bs => simp [eventInstr]
  | readStatus => simp [eventInstr]
  | readTag j => simp [eventInstr]
  | pass => simp [eventInstr]

/-- The move `advance`, or no move scheduled, which is the same (log 3). -/
theorem advance_of_events (h : s.events = .advance :: es ∨ (s.events = [] ∧ es = [])) :
    nextEvent s = .advance ∧ afterEvent s = { s with events := es } := by
  rcases h with h | ⟨h, rfl⟩
  · exact ⟨nextEvent_cons h, afterEvent_cons h⟩
  · exact ⟨by simp [nextEvent, h], by rw [afterEvent_eq, h]; rfl⟩

/-- On `advance` a step runs the micro-operation PHASE and KLEN against B select (R59, R70). -/
theorem step_microOp (hw : s.inst.wf = true)
    (he : s.events = .advance :: es ∨ (s.events = [] ∧ es = []))
    (hi : microOp s.phase s.klenCmp = .ok i) : step s = exec i { s with events := es } := by
  obtain ⟨hn, ha⟩ := advance_of_events he
  rw [step_runs hw (eventInstr_eq_some.2 (.inl ⟨hn, hi⟩)), ha]

/-- On `advance` a step in a phase that selects nothing takes the move off the list (R13). -/
theorem step_waits (hw : s.inst.wf = true)
    (he : s.events = .advance :: es ∨ (s.events = [] ∧ es = []))
    (hp : s.phase = .idle ∨ s.phase = .done ∨ s.phase = .failed ∨ s.phase = .dead) :
    step s = .next { s with events := es } := by
  obtain ⟨hn, ha⟩ := advance_of_events he
  have hnone : eventInstr (nextEvent s) (afterEvent s) = none := by
    rw [hn, eventInstr_advance]
    show (microOp s.phase s.klenCmp).toOption = none
    rcases hp with h | h | h | h <;> rw [h] <;> rfl
  rw [step_moves hw hnone, hn, ha]
  rfl

/-- Settles O7: the oldest move selects the instruction, and the step is its meaning. -/
theorem stepRunsTheSelectedInstruction : Obligations.StepRunsTheSelectedInstruction := by
  intro s es hw
  refine ⟨fun h => step_cons_runs hw h rfl, fun g h => step_cons_runs hw h rfl,
    fun d h hop => step_cons_runs hw h ?_, fun he => ?_⟩
  · exact (eventInstr_command _ _).trans (if_pos hop)
  · refine ⟨fun hp hk => ?_, fun hp hk => ?_, fun hp hk => ?_, fun hp => ?_, fun hp => ?_, fun hp => ?_,
      fun hp => ?_, fun hp => ?_, fun hp => ?_, step_waits hw he⟩
    · exact step_microOp hw he (by rw [hp, klenCmp_gt.2 hk]; rfl)
    · exact step_microOp hw he (by rw [hp, klenCmp_lt.2 hk]; rfl)
    · exact step_microOp hw he (by rw [hp, klenCmp_eq.2 hk]; rfl)
    all_goals exact step_microOp hw he (by rw [hp]; rfl)

/-- Settles O10: a read runs no instruction, and its own effect is none. -/
theorem hostReadsChangeNothing : Obligations.HostReadsChangeNothing := by
  intro s es hw
  refine ⟨fun h => ?_, fun j h hj => ⟨?_, if_pos hj⟩, fun j h hj => ⟨?_, if_neg (Nat.not_lt.2 hj)⟩⟩
  all_goals
    rw [step_moves hw (by rw [nextEvent_cons h]; rfl), nextEvent_cons h, afterEvent_cons h]
  · rfl
  · exact if_pos hj
  · exact if_neg (Nat.not_lt.2 hj)

end Sys2Proof.Machine
end

section
/-! SUPPORT. The flags and the values after reset (R22, R29). -/

namespace Sys2Proof.Machine

variable {s t : State}

/-- While busy, `PHASE` is none of the phases the flags name (R22). -/
theorem phase_ne_of_busy (h : s.busy = true) :
    s.phase ≠ .done ∧ s.phase ≠ .failed ∧ s.phase ≠ .dead := by
  unfold State.busy at h
  refine ⟨?_, ?_, ?_⟩ <;> intro hp <;> rw [hp] at h <;> exact absurd h (by decide)

/-- While busy, there is no valid tag and no error (R22). -/
theorem State.Inv.flags_of_busy (hs : s.Inv) (hb : s.busy = true) :
    s.tagv = false ∧ s.err = .noError := by
  obtain ⟨hdone, hfailed, hdead⟩ := phase_ne_of_busy hb
  obtain ⟨htagv, halloc, hinvalid⟩ := hs.flags
  refine ⟨Bool.eq_false_iff.2 (mt htagv.1 hdone), ?_⟩
  cases he : s.err with
  | noError => rfl
  | invalidHashParameters => exact absurd (hinvalid.1 he) hdead
  | allocationFailure => exact absurd (halloc.1 he) hfailed

/-- Settles O37: BUSY is a comparison of the code of PHASE, and the other flags are the invariant's. -/
theorem flagsFollowPhase : Obligations.FlagsFollowPhase := by
  refine ⟨fun s => ?_, fun s hs => ?_⟩
  · simp [State.busy, phaseBusy]
  · obtain ⟨htagv, halloc, hinvalid⟩ := hs.flags
    exact ⟨htagv, halloc, hinvalid, hs.flags_of_busy⟩

theorem zeros_getElem? {n i : Nat} (h : i < n) : (zeros n)[i]? = some 0 := by
  simp [zeros, rep, h]

/-- No working buffer or register of a reset state holds anything (R29). -/
theorem resetOf_zeroed (c : Inst) : (State.resetOf c).Zeroed :=
  ⟨rfl, rfl, rfl, rfl, rfl, rfl, rfl, rfl⟩

@[simp] theorem resetOf_inst (c : Inst) : (State.resetOf c).inst = c := rfl
@[simp] theorem resetOf_tagv (c : Inst) : (State.resetOf c).tagv = false := rfl
@[simp] theorem resetOf_tag (c : Inst) : (State.resetOf c).tag = zeros c.H := rfl
@[simp] theorem resetOf_hreq (c : Inst) : (State.resetOf c).hreq = none := rfl

theorem resetOf_valid {c : Inst} (h : c.H ≤ c.B) :
    (State.resetOf c).phase = .idle ∧ (State.resetOf c).err = .noError :=
  ⟨if_pos h, if_pos h⟩

theorem resetOf_invalid {c : Inst} (h : c.B < c.H) :
    (State.resetOf c).phase = .dead ∧ (State.resetOf c).err = .invalidHashParameters :=
  ⟨if_neg (Nat.not_le.2 h), if_neg (Nat.not_le.2 h)⟩

theorem resetOf_not_busy (c : Inst) : (State.resetOf c).busy = false := by
  unfold State.busy
  rcases Nat.lt_or_ge c.B c.H with h | h
  · rw [(resetOf_invalid h).1]; rfl
  · rw [(resetOf_valid h).1]; rfl

/-- Settles O34: the reset state is written out in R29; STATUS follows from its phase and error. -/
theorem resetValues : Obligations.ResetValues := by
  intro c
  show (State.resetOf c).Zeroed ∧ _
  refine ⟨resetOf_zeroed c, rfl, rfl, rfl, resetOf_not_busy c, zeros_length _,
    fun i => zeros_getElem?, zeros_length _, fun i => zeros_getElem?, rfl, rfl,
    fun hv => ?_, fun hd => ?_⟩
  · obtain ⟨hp, he⟩ := resetOf_valid hv
    exact ⟨hp, he, by rw [status_eq, hp, he, resetOf_tagv]; decide⟩
  · obtain ⟨hp, he⟩ := resetOf_invalid hd
    exact ⟨hp, he, by rw [status_eq, hp, he, resetOf_tagv]; decide⟩

end Sys2Proof.Machine
end

section
/-! SUPPORT. Two ways to establish the invariant of the engine, and that it holds at reset. -/

namespace Sys2Proof.Machine

variable {s t : State} {i : Instr}

/-! ### A resting and a busy state -/

/-- CAT1 is in use only while busy (R16, R93). -/
theorem phaseHoldsCat1_of_not_busy (h : s.busy = false) : phaseHoldsCat1 s.phase = false := by
  revert h
  unfold State.busy
  cases s.phase <;> decide

theorem lengthFits_zero (c : Inst) : c.lengthFits 0 = true :=
  lengthFits_iff.2 fun _ _ => Nat.two_pow_pos _

/-- A zeroised state that is not busy meets the invariant if its flags and its tag do. -/
theorem State.Zeroed.inv (hz : s.Zeroed) (hb : s.busy = false) (hq : s.hreq.isSome = phaseWaits s.phase)
    (htag : s.tag.length = s.inst.H) (hclear : s.tagv = false → s.tag = zeros s.inst.H)
    (hflags : (s.tagv = true ↔ s.phase = .done) ∧ (s.err = .allocationFailure ↔ s.phase = .failed) ∧
      (s.err = .invalidHashParameters ↔ s.phase = .dead))
    (hdead : s.phase = .dead ↔ s.inst.B < s.inst.H)
    (hmem : Memory.wf s.keyMem = true ∧ Memory.wf s.msgMem = true) : s.Inv where
  sizes := by simp [hz.k0, hz.ipadb, hz.opadb, hz.cat2, hz.idig, htag]
  cat1Size := by simp [hz.cat1, phaseHoldsCat1_of_not_busy hb]
  lengths := by simp [hz.klen, hz.mlen, lengthFits_zero]
  flags := hflags
  request := hq
  dead := hdead
  idleZero _ := hz
  tagClear := hclear
  capacity h := absurd h (by simp [hb])
  memory := hmem

/-- A busy state meets the invariant if its buffers have their sizes, its request follows PHASE, its
parameters are valid, its invocation fits, and it shows no tag and no error. -/
theorem inv_of_busy (hb : s.busy = true) (hv : s.inst.H ≤ s.inst.B)
    (hsizes : s.k0.length = s.inst.B ∧ s.ipadb.length = s.inst.B ∧ s.opadb.length = s.inst.B ∧
      s.cat2.length = s.inst.B + s.inst.H ∧ s.idig.length = s.inst.H)
    (hcat1 : s.cat1.length = if phaseHoldsCat1 s.phase then s.inst.B + s.mlen else 0)
    (hlens : s.inst.lengthFits s.klen = true ∧ s.inst.lengthFits s.mlen = true)
    (hcap : capacityExceeded s.inst s.mlen = false) (hq : s.hreq.isSome = phaseWaits s.phase)
    (htagv : s.tagv = false) (htag : s.tag = zeros s.inst.H) (herr : s.err = .noError)
    (hmem : Memory.wf s.keyMem = true ∧ Memory.wf s.msgMem = true) : s.Inv := by
  obtain ⟨hdone, hfailed, hdead⟩ := phase_ne_of_busy hb
  obtain ⟨hk0, hip, hop, hcat2, hidig⟩ := hsizes
  exact {
    sizes := ⟨hk0, hip, hop, hcat2, hidig, by rw [htag, zeros_length]⟩
    cat1Size := hcat1
    lengths := hlens
    flags := by simp [htagv, herr, hdone, hfailed, hdead]
    request := hq
    dead := iff_of_false hdead (Nat.not_lt.2 hv)
    idleZero := fun h => absurd hb (by simp [h])
    tagClear := fun _ => htag
    capacity := fun _ => hcap
    memory := hmem }

/-! ### Reset -/

theorem resetOf_inv (c : Inst) : (State.resetOf c).Inv := by
  refine (resetOf_zeroed c).inv (resetOf_not_busy c) ?_ (by simp) (by simp) ?_ ?_
    (resetOf_memory_wf c)
  all_goals
    rcases Nat.lt_or_ge c.B c.H with h | h
    · obtain ⟨hp, he⟩ := resetOf_invalid h
      simp [hp, he, phaseWaits, h]
    · obtain ⟨hp, he⟩ := resetOf_valid h
      simp [hp, he, phaseWaits, Nat.not_lt.2 h]

/-- Settles O39: a reset state is zeroised, its flags follow the check of `H` against `B`, and, not busy,
it carries nothing. -/
theorem resetMeetsTheInvariant : Obligations.ResetMeetsTheInvariant :=
  ⟨fun c => ⟨resetOf_inv c, carries_of_not_busy (resetOf_not_busy c)⟩, resetOf_inv _⟩

end Sys2Proof.Machine
end

section
/-! SUPPORT. The effects in four kinds: COMPUTE, RESET, the delivery of the tag, and the working steps of
an invocation, which write the working buffers and the request alone (R13, R19, R21). -/

namespace Sys2Proof.Machine

variable {s t : State} {i : Instr}

/-- A row of the transition table between two busy phases, which writes nothing but PHASE, the working
buffers and the request. -/
structure Advances (s t : State) : Prop where
  row : phaseStep s.phase t.phase = true
  busy : s.busy = true
  stillBusy : t.busy = true
  frame : t = { s with phase := t.phase, k0 := t.k0, ipadb := t.ipadb, opadb := t.opadb,
                       cat1 := t.cat1, cat2 := t.cat2, idig := t.idig, hreq := t.hreq }

theorem Advances.of_phase {p : Phase} (hp : s.phase = p)
    (hrow : (phaseStep p t.phase && phaseBusy p && phaseBusy t.phase) = true)
    (hframe : t = { s with phase := t.phase, k0 := t.k0, ipadb := t.ipadb, opadb := t.opadb,
                           cat1 := t.cat1, cat2 := t.cat2, idig := t.idig, hreq := t.hreq }) :
    Advances s t := by
  subst hp
  simp only [Bool.and_eq_true] at hrow
  obtain ⟨⟨hrow, hbusy⟩, hbusy'⟩ := hrow
  exact ⟨hrow, hbusy, hbusy', hframe⟩

/-- What a COMPUTE can do to PHASE: nothing at all, or leave a ready phase for KEYNORM or FAILED. -/
def ComputeOutcome (s t : State) : Prop :=
  t = s ∨ phaseReady s.phase = true ∧ (t.phase = .keynorm ∨ t.phase = .failed)

/-- Every effect is of one of the four kinds. -/
theorem effect_kinds (h : Effect s t i) :
    ((∃ k m, i = .compute k m) ∧ ComputeOutcome s t) ∨ (i = .reset ∧ t = s.engineReset) ∨
      (s.phase = .outerWait ∧ t.phase = .done ∧ t.err = s.err ∧
        (i = .outerRsp ∨ ∃ g, i = .hashrsp g)) ∨
      Advances s t := by
  cases h with
  | ignored k m h e => exact .inl ⟨⟨k, m, rfl⟩, .inl e⟩
  | started k m h hf hc e => exact .inl ⟨⟨k, m, rfl⟩, .inr ⟨h, .inl (by rw [e]; rfl)⟩⟩
  | failed k m h hc e => exact .inl ⟨⟨k, m, rfl⟩, .inr ⟨h, .inr (by rw [e]; rfl)⟩⟩
  | wasReset e => exact .inr (.inl ⟨rfl, e⟩)
  | delivered i q hi h hq e => subst e; exact .inr (.inr (.inl ⟨h, rfl, rfl, hi⟩))
  | keySent i hi h hk hq e => subst e; exact .inr (.inr (.inr (.of_phase h rfl rfl)))
  | keyPadded h hk e => subst e; exact .inr (.inr (.inr (.of_phase h rfl rfl)))
  | keyCopied h hk e => subst e; exact .inr (.inr (.inr (.of_phase h rfl rfl)))
  | keyDigest i q hi h hq e => subst e; exact .inr (.inr (.inr (.of_phase h rfl rfl)))
  | padded h e => subst e; exact .inr (.inr (.inr (.of_phase h rfl rfl)))
  | innerSent i hi h hq e => subst e; exact .inr (.inr (.inr (.of_phase h rfl rfl)))
  | innerDigest i q hi h hq e => subst e; exact .inr (.inr (.inr (.of_phase h rfl rfl)))
  | outerSent i hi h hq e => subst e; exact .inr (.inr (.inr (.of_phase h rfl rfl)))

/-- Settles O52: of the four kinds of effects, the working steps of an invocation keep all three. -/
theorem whoWritesTagAndErr : Obligations.WhoWritesTagAndErr := by
  intro i s t h hw
  rcases effect_kinds (exec_effect h) with ⟨hi, -⟩ | ⟨hi, -⟩ | ⟨hp, -, herr, hi⟩ | ha
  · exact .inl hi
  · exact .inr (.inl hi)
  · exact .inr (.inr ⟨hp, herr, hi⟩)
  · rw [ha.frame] at hw
    simp at hw

end Sys2Proof.Machine
end

section
/-! SUPPORT. Every step keeps the invariant of the engine. -/

namespace Sys2Proof.Machine

variable {s t : State} {i : Instr}

/-- In a phase other than DEAD a digest fits a block (R132). -/
theorem State.Inv.valid (hs : s.Inv) (h : s.phase ≠ .dead) : s.inst.H ≤ s.inst.B :=
  Nat.le_of_not_lt (mt hs.dead.2 h)

/-- A working step keeps the invariant if the buffers have their sizes and the request follows PHASE
after it: the rest of the state stays as it was. -/
theorem Advances.inv (hs : s.Inv) (h : Advances s t)
    (hsizes : t.k0.length = t.inst.B ∧ t.ipadb.length = t.inst.B ∧ t.opadb.length = t.inst.B ∧
      t.cat2.length = t.inst.B + t.inst.H ∧ t.idig.length = t.inst.H)
    (hcat1 : t.cat1.length = if phaseHoldsCat1 t.phase then t.inst.B + t.mlen else 0)
    (hq : t.hreq.isSome = phaseWaits t.phase) : t.Inv := by
  obtain ⟨-, hb, hb', hf⟩ := h
  obtain ⟨-, -, hdead⟩ := phase_ne_of_busy hb
  obtain ⟨htagv, herr⟩ := hs.flags_of_busy hb
  refine inv_of_busy hb' ?_ hsizes hcat1 ?_ ?_ hq ?_ ?_ ?_ ?_ <;> rw [hf]
  · exact hs.valid hdead
  · exact hs.lengths
  · exact hs.capacity hb
  · exact htagv
  · exact hs.tagClear htagv
  · exact herr
  · exact hs.memory

/-- The invariant says nothing of the moves to come, and of the caller spaces their canonical form. -/
theorem State.Inv.with_surroundings {key msg : Memory} (hs : s.Inv) (es : List Event)
    (hmem : Memory.wf key = true ∧ Memory.wf msg = true) :
    State.Inv { s with keyMem := key, msgMem := msg, events := es } where
  sizes := hs.sizes
  cat1Size := hs.cat1Size
  lengths := hs.lengths
  flags := hs.flags
  request := hs.request
  dead := hs.dead
  idleZero h :=
    have ⟨hk0, hip, hop, hcat1, hcat2, hidig, hklen, hmlen⟩ := hs.idleZero h
    ⟨hk0, hip, hop, hcat1, hcat2, hidig, hklen, hmlen⟩
  tagClear := hs.tagClear
  capacity := hs.capacity
  memory := hmem

theorem afterEvent_inv (hs : s.Inv) : (afterEvent s).Inv :=
  hs.with_surroundings s.events.tail hs.memory

theorem placeBytes_inv (hs : s.Inv) (sp : Space) (j : Nat) (bs : Bytes) : (s.placeBytes sp j bs).Inv := by
  obtain ⟨hkey, hmsg⟩ := hs.memory
  cases sp
  · exact hs.with_surroundings s.events ⟨writeAll_wf _ j bs hkey, hmsg⟩
  · exact hs.with_surroundings s.events ⟨hkey, writeAll_wf _ j bs hmsg⟩

theorem engineReset_inv (hs : s.Inv) : s.engineReset.Inv :=
  (resetOf_inv s.inst).with_surroundings s.events hs.memory

/-! ### COMPUTE and the delivery of the tag -/

/-- In a ready phase no request is outstanding (R25). -/
theorem State.Inv.hreq_of_ready (hs : s.Inv) (h : phaseReady s.phase = true) : s.hreq.isSome = false :=
  hs.request.trans (by rcases phaseReady_iff.1 h with h | h | h <;> rw [h] <;> rfl)

theorem State.Inv.valid_of_ready (hs : s.Inv) (h : phaseReady s.phase = true) :
    s.inst.H ≤ s.inst.B :=
  hs.valid fun hd => by simp [hd, phaseReady] at h

theorem started_inv {k m : Nat} (hs : s.Inv) (h : phaseReady s.phase = true)
    (hf : s.inst.lengthFits k = true ∧ s.inst.lengthFits m = true)
    (hc : capacityExceeded s.inst m = false) :
    ((((s.clearTag).setErr .noError).setLens k m).setPhase .keynorm).Inv := by
  have hcat1 := (hs.idleZero (phaseBusy_of_ready h)).cat1
  obtain ⟨hk0, hip, hop, hcat2, hidig, -⟩ := hs.sizes
  exact inv_of_busy rfl (hs.valid_of_ready h) ⟨hk0, hip, hop, hcat2, hidig⟩
    (congrArg List.length hcat1) hf hc (hs.hreq_of_ready h) rfl rfl rfl hs.memory

theorem allocationFailure_inv (hs : s.Inv) (h : phaseReady s.phase = true) :
    ((s.clearTag).raiseAllocationFailure).Inv := by
  have hz : ((s.clearTag).raiseAllocationFailure).Zeroed :=
    ⟨rfl, rfl, rfl, rfl, rfl, rfl, rfl, rfl⟩
  exact hz.inv rfl (hs.hreq_of_ready h) (zeros_length _) (fun _ => rfl)
    (by simp [raiseAllocationFailure_eq])
    (iff_of_false (by simp [raiseAllocationFailure_eq]) (Nat.not_lt.2 (hs.valid_of_ready h))) hs.memory

theorem storeTag_inv (hs : s.Inv) (h : s.phase = .outerWait) (q : Bytes) :
    (storeTag (hashOf s.inst q) (s.setHreq none)).Inv := by
  have hz : (storeTag (hashOf s.inst q) (s.setHreq none)).Zeroed :=
    ⟨rfl, rfl, rfl, rfl, rfl, rfl, rfl, rfl⟩
  obtain ⟨-, herr⟩ := hs.flags_of_busy (by simp [State.busy, h, phaseBusy, phaseCode])
  exact hz.inv rfl rfl (hashOf_length _ _) nofun (by simp [storeTag, herr])
    (iff_of_false (by simp [storeTag]) (Nat.not_lt.2 (hs.valid (by simp [h])))) hs.memory

/-! ### Every instruction, and every step -/

theorem effect_inv (hs : s.Inv) (h : Effect s t i) : t.Inv := by
  obtain ⟨hk0, hip, hop, hcat2, hidig, -⟩ := hs.sizes
  have hcat1 := hs.cat1Size
  cases h with
  | ignored k m h e => exact e ▸ hs
  | started k m h hf hc e => exact e ▸ started_inv hs h hf hc
  | failed k m h hc e => exact e ▸ allocationFailure_inv hs h
  | keySent i hi h hk hq e =>
    subst e
    rw [h] at hcat1
    exact (Advances.of_phase h rfl rfl).inv hs ⟨hk0, hip, hop, hcat2, hidig⟩ hcat1 rfl
  | keyPadded h hk e =>
    subst e
    rw [h] at hcat1
    refine (Advances.of_phase h rfl rfl).inv hs ⟨?_, hip, hop, hcat2, hidig⟩ hcat1
      (hs.request.trans (by rw [h]; rfl))
    simp [Nat.add_sub_cancel' hk.le]
  | keyCopied h hk e =>
    subst e
    rw [h] at hcat1
    refine (Advances.of_phase h rfl rfl).inv hs ⟨?_, hip, hop, hcat2, hidig⟩ hcat1
      (hs.request.trans (by rw [h]; rfl))
    simpa using hk
  | keyDigest i q hi h hq e =>
    subst e
    rw [h] at hcat1
    have hfit := hs.valid (by simp [h])
    refine (Advances.of_phase h rfl rfl).inv hs ⟨?_, hip, hop, hcat2, hidig⟩ hcat1 rfl
    simp [storeKeyDigest, Nat.add_sub_cancel' hfit]
  | padded h e =>
    subst e
    rw [h] at hcat1
    exact (Advances.of_phase h rfl rfl).inv hs
      ⟨hk0, (xorEach_length _ _).trans hk0, (xorEach_length _ _).trans hk0, hcat2, hidig⟩ hcat1
      (hs.request.trans (by rw [h]; rfl))
  | innerSent i hi h hq e =>
    subst e
    refine (Advances.of_phase h rfl rfl).inv hs ⟨hk0, hip, hop, hcat2, hidig⟩ ?_ rfl
    simp [hip, phaseHoldsCat1]
  | innerDigest i q hi h hq e =>
    subst e
    rw [h] at hcat1
    exact (Advances.of_phase h rfl rfl).inv hs ⟨hk0, hip, hop, hcat2, hashOf_length _ _⟩ hcat1 rfl
  | outerSent i hi h hq e =>
    subst e
    rw [h] at hcat1
    refine (Advances.of_phase h rfl rfl).inv hs ⟨hk0, hip, hop, ?_, hidig⟩ hcat1 rfl
    simp [hop, hidig]
  | delivered i q hi h hq e => exact e ▸ storeTag_inv hs h q
  | wasReset e => exact e ▸ engineReset_inv hs

/-- Settles O40: a step takes its move off the list and has the effect of an instruction, or places the
HOST's bytes, or changes nothing more; each keeps the invariant. -/
theorem stepKeepsTheInvariant : Obligations.StepKeepsTheInvariant := by
  intro s t hs h
  have ha := afterEvent_inv hs
  rcases step_effect h with ⟨i, -, he⟩ | ⟨sp, j, bs, -, rfl, -⟩ | ⟨-, rfl⟩
  · exact effect_inv ha he
  · exact placeBytes_inv ha sp j bs
  · exact ha

end Sys2Proof.Machine
end

section
/-! SUPPORT. No transition but those of the table (R13, R130). -/

namespace Sys2Proof.Machine

variable {s t : State} {i : Instr}

theorem engineReset_phase (s : State) :
    s.engineReset.phase = if s.inst.H ≤ s.inst.B then .idle else .dead := rfl

/-- An instruction other than RESET makes a row of the transition table or changes nothing. -/
theorem effect_row (h : Effect s t i) (hi : i ≠ .reset) :
    phaseStep s.phase t.phase = true ∨ t = s := by
  rcases effect_kinds h with ⟨-, e | ⟨hr, ht⟩⟩ | ⟨hreset, -⟩ | ⟨hp, hp', -⟩ | ha
  · exact .inr e
  · left
    rcases phaseReady_iff.1 hr with h | h | h <;> rcases ht with h' | h' <;> rw [h, h'] <;> rfl
  · exact absurd hreset hi
  · exact .inl (by rw [hp, hp']; rfl)
  · exact .inl ha.row

/-- No move but a reset runs RESET (R130). -/
theorem eventInstr_ne_reset {e : Event} (he : e ≠ .reset) (h : eventInstr e s = some i) :
    i ≠ .reset := by
  rcases eventInstr_eq_some.1 h with ⟨-, hi⟩ | ⟨g, -, rfl⟩ | ⟨d, -, -, rfl⟩ | ⟨hr, -⟩
  · exact (microOp_ok hi).2
  · exact nofun
  · exact nofun
  · exact absurd hr he

theorem step_of_reset (h : step s = .next t) (he : nextEvent s = .reset) :
    t = (afterEvent s).engineReset := by
  obtain ⟨hw, -⟩ := step_next.1 h
  rw [step_runs hw (i := .reset) (by rw [he]; rfl)] at h
  exact execReset_next.1 h

/-- Settles O44: a reset move runs RESET, any other an instruction that makes a row of the table or
changes nothing, or none at all. -/
theorem noOtherTransition : Obligations.NoOtherTransition := by
  intro s t h
  refine ⟨fun he => by rw [step_of_reset h he]; rfl, fun he => ?_⟩
  rcases step_effect h with ⟨i, hi, heff⟩ | ⟨sp, j, bs, -, rfl, -⟩ | ⟨-, rfl⟩
  · rcases effect_row heff (eventInstr_ne_reset he hi) with hrow | rfl
    · exact .inl hrow
    · exact .inr rfl
  · exact .inr (by cases sp <;> rfl)
  · exact .inr rfl

end Sys2Proof.Machine
end

section
/-! SUPPORT. What the HOST sees does not depend on the secrets (R27): one rule per update of the state,
then every instruction, then every step. -/

namespace Sys2Proof.Machine

variable {s s' t t' : State} {i : Instr}

/-! ### Agreement up to the secrets -/

theorem SameButSecrets.symm (h : SameButSecrets s s') : SameButSecrets s' s :=
  ⟨h.inst.symm, h.phase.symm, h.err.symm, h.tagv.symm, h.klen.symm, h.mlen.symm, h.tag.symm,
    h.hreq.symm, h.events.symm⟩

theorem SameButSecrets.trans (h : SameButSecrets s s') (h' : SameButSecrets s' t) :
    SameButSecrets s t :=
  ⟨h'.inst.trans h.inst, h'.phase.trans h.phase, h'.err.trans h.err, h'.tagv.trans h.tagv,
    h'.klen.trans h.klen, h'.mlen.trans h.mlen, h'.tag.trans h.tag, h'.hreq.trans h.hreq,
    h'.events.trans h.events⟩

theorem SameButSecrets.hostView (h : SameButSecrets s s') : s.hostView = s'.hostView := by
  unfold State.hostView
  rw [status_eq, status_eq, h.phase, h.tagv, h.err, h.tag]

theorem SameButSecrets.klenCmp (h : SameButSecrets s s') : s'.klenCmp = s.klenCmp := by
  unfold State.klenCmp
  rw [h.klen, h.inst]

theorem SameButSecrets.nextEvent (h : SameButSecrets s s') : nextEvent s' = nextEvent s := by
  unfold Machine.nextEvent
  rw [h.events]

/-- What a move selects depends on no secret (R59). -/
theorem SameButSecrets.eventInstr (h : SameButSecrets s s') (e : Event) :
    eventInstr e s' = eventInstr e s := by
  cases e with
  | advance => rw [eventInstr_advance, eventInstr_advance, h.phase, h.klenCmp]
  | respond g => rfl
  | command d => rfl
  | place sp j bs => rfl
  | readStatus => rfl
  | readTag j => rfl
  | reset => rfl
  | pass => rfl

/-! ### One rule per update: a public value must agree, a secret need not -/

theorem SameButSecrets.setPhase (h : SameButSecrets s s') (p : Phase) :
    SameButSecrets (s.setPhase p) (s'.setPhase p) := { h with phase := rfl }

theorem SameButSecrets.setErr (h : SameButSecrets s s') (e : ErrCode) :
    SameButSecrets (s.setErr e) (s'.setErr e) := { h with err := rfl }

theorem SameButSecrets.setLens (h : SameButSecrets s s') (k m : Nat) :
    SameButSecrets (s.setLens k m) (s'.setLens k m) := { h with klen := rfl, mlen := rfl }

theorem SameButSecrets.clearTag (h : SameButSecrets s s') :
    SameButSecrets s.clearTag s'.clearTag :=
  { h with tagv := rfl, tag := congrArg (fun c : Inst => zeros c.H) h.inst }

theorem SameButSecrets.zeroise (h : SameButSecrets s s') : SameButSecrets s.zeroise s'.zeroise :=
  { h with klen := rfl, mlen := rfl }

theorem SameButSecrets.setHreq_none (h : SameButSecrets s s') :
    SameButSecrets (s.setHreq none) (s'.setHreq none) := { h with hreq := rfl }

theorem SameButSecrets.setHreq_some (h : SameButSecrets s s') (q q' : Bytes) :
    SameButSecrets (s.setHreq (some q)) (s'.setHreq (some q')) := { h with hreq := rfl }

theorem SameButSecrets.setK0 (h : SameButSecrets s s') (bs bs' : Bytes) :
    SameButSecrets (s.setK0 bs) (s'.setK0 bs') := { h with }

theorem SameButSecrets.setPads (h : SameButSecrets s s') (ip op ip' op' : Bytes) :
    SameButSecrets (s.setPads ip op) (s'.setPads ip' op') := { h with }

theorem SameButSecrets.setCat1 (h : SameButSecrets s s') (bs bs' : Bytes) :
    SameButSecrets (s.setCat1 bs) (s'.setCat1 bs') := { h with }

theorem SameButSecrets.setCat2 (h : SameButSecrets s s') (bs bs' : Bytes) :
    SameButSecrets (s.setCat2 bs) (s'.setCat2 bs') := { h with }

theorem SameButSecrets.setIdig (h : SameButSecrets s s') (bs bs' : Bytes) :
    SameButSecrets (s.setIdig bs) (s'.setIdig bs') := { h with }

theorem SameButSecrets.afterEvent (h : SameButSecrets s s') :
    SameButSecrets (afterEvent s) (afterEvent s') := { h with events := congrArg List.tail h.events }

/-! ### Every instruction a move runs -/

theorem SameButSecrets.engineReset (h : SameButSecrets s s') :
    SameButSecrets s.engineReset s'.engineReset := by
  unfold State.engineReset
  rw [h.inst]
  exact (h.clearTag.zeroise.setHreq_none.setErr _).setPhase _

theorem SameButSecrets.acceptCompute (h : SameButSecrets s s') (k m : Nat) :
    SameButSecrets (acceptCompute k m s) (acceptCompute k m s') := by
  unfold Machine.acceptCompute State.raiseAllocationFailure
  rw [h.inst]
  split
  · exact (h.clearTag.setErr _).clearTag.zeroise.setPhase _
  · exact ((h.clearTag.setErr _).setLens _ _).setPhase _

theorem compute_sameButSecrets {k m : Nat} (h : SameButSecrets s s')
    (hx : exec (.compute k m) s = .next t) (hx' : exec (.compute k m) s' = .next t') :
    SameButSecrets t t' := by
  obtain ⟨-, rfl⟩ := execCompute_next.1 hx
  obtain ⟨-, rfl⟩ := execCompute_next.1 hx'
  rw [h.phase]
  split
  · exact h.acceptCompute k m
  · exact h

/-- A selected micro-operation moves secrets into secrets, but for the one that delivers the tag. -/
theorem microOp_sameButSecrets (h : SameButSecrets s s') (hp : s.phase ≠ .outerWait)
    (hi : microOp s.phase s.klenCmp = .ok i) (hx : exec i s = .next t) (hx' : exec i s' = .next t') :
    SameButSecrets t t' := by
  cases hph : s.phase with
  | keynorm =>
    cases hc : s.klenCmp with
    | gt =>
      obtain rfl : .keynormLong = i := by simpa [hph, hc, microOp] using hi
      obtain ⟨-, -, -, rfl⟩ := execKeynormLong_next.1 hx
      obtain ⟨-, -, -, rfl⟩ := execKeynormLong_next.1 hx'
      exact (h.setHreq_some _ _).setPhase _
    | lt =>
      obtain rfl : .keynormShort = i := by simpa [hph, hc, microOp] using hi
      obtain ⟨-, -, rfl⟩ := execKeynormShort_next.1 hx
      obtain ⟨-, -, rfl⟩ := execKeynormShort_next.1 hx'
      exact (h.setK0 _ _).setPhase _
    | eq =>
      obtain rfl : .keynormEqual = i := by simpa [hph, hc, microOp] using hi
      obtain ⟨-, -, rfl⟩ := execKeynormEqual_next.1 hx
      obtain ⟨-, -, rfl⟩ := execKeynormEqual_next.1 hx'
      exact (h.setK0 _ _).setPhase _
  | keyhashWait =>
    obtain rfl : .keyhashRsp = i := by simpa [hph, microOp] using hi
    obtain ⟨-, q, -, rfl⟩ := execKeyhashRsp_next.1 hx
    obtain ⟨-, q', -, rfl⟩ := execKeyhashRsp_next.1 hx'
    exact (h.setHreq_none.setK0 _ _).setPhase _
  | pads =>
    obtain rfl : .pads = i := by simpa [hph, microOp] using hi
    obtain ⟨-, rfl⟩ := execPads_next.1 hx
    obtain ⟨-, rfl⟩ := execPads_next.1 hx'
    exact (h.setPads _ _ _ _).setPhase _
  | inner =>
    obtain rfl : .innerReq = i := by simpa [hph, microOp] using hi
    obtain ⟨-, -, rfl⟩ := execInnerReq_next.1 hx
    obtain ⟨-, -, rfl⟩ := execInnerReq_next.1 hx'
    exact ((h.setCat1 _ _).setHreq_some _ _).setPhase _
  | innerWait =>
    obtain rfl : .innerRsp = i := by simpa [hph, microOp] using hi
    obtain ⟨-, q, -, rfl⟩ := execInnerRsp_next.1 hx
    obtain ⟨-, q', -, rfl⟩ := execInnerRsp_next.1 hx'
    exact (h.setHreq_none.setIdig _ _).setPhase _
  | outer =>
    obtain rfl : .outerReq = i := by simpa [hph, microOp] using hi
    obtain ⟨-, -, rfl⟩ := execOuterReq_next.1 hx
    obtain ⟨-, -, rfl⟩ := execOuterReq_next.1 hx'
    exact ((h.setCat2 _ _).setHreq_some _ _).setPhase _
  | outerWait => exact absurd hph hp
  | idle => simp [hph, microOp] at hi
  | done => simp [hph, microOp] at hi
  | failed => simp [hph, microOp] at hi
  | dead => simp [hph, microOp] at hi

/-- A delivered response is the step of the micro-operation PHASE selects (R101). -/
theorem execHashrsp_selected {g : Bytes} (h : exec (.hashrsp g) s = .next t) :
    ∃ j, microOp s.phase s.klenCmp = .ok j ∧ exec j s = .next t := by
  obtain ⟨-, hx | hx | hx⟩ := execHashrsp_next.1 h
  · exact ⟨.keyhashRsp, by rw [(execKeyhashRsp_next.1 hx).1]; rfl, hx⟩
  · exact ⟨.innerRsp, by rw [(execInnerRsp_next.1 hx).1]; rfl, hx⟩
  · exact ⟨.outerRsp, by rw [(execOuterRsp_next.1 hx).1]; rfl, hx⟩

theorem hashrsp_sameButSecrets {g : Bytes} (h : SameButSecrets s s') (hp : s.phase ≠ .outerWait)
    (hx : exec (.hashrsp g) s = .next t) (hx' : exec (.hashrsp g) s' = .next t') :
    SameButSecrets t t' := by
  obtain ⟨j, hj, hx⟩ := execHashrsp_selected hx
  obtain ⟨j', hj', hx'⟩ := execHashrsp_selected hx'
  rw [h.phase, h.klenCmp, hj] at hj'
  obtain rfl : j = j' := by simpa using hj'
  exact microOp_sameButSecrets h hp hj hx hx'

/-- An instruction a move runs lets nothing depend on the secrets, unless it delivers the tag. -/
theorem exec_sameButSecrets {e : Event} (h : SameButSecrets s s')
    (hd : ¬ (s.phase = .outerWait ∧ (e = .advance ∨ ∃ g, e = .respond g)))
    (hi : eventInstr e s = some i) (hx : exec i s = .next t) (hx' : exec i s' = .next t') :
    SameButSecrets t t' := by
  rcases eventInstr_eq_some.1 hi with ⟨he, hm⟩ | ⟨g, he, rfl⟩ | ⟨d, -, -, rfl⟩ | ⟨-, rfl⟩
  · exact microOp_sameButSecrets h (fun hp => hd ⟨hp, .inl he⟩) hm hx hx'
  · exact hashrsp_sameButSecrets h (fun hp => hd ⟨hp, .inr ⟨g, he⟩⟩) hx hx'
  · exact compute_sameButSecrets h hx hx'
  · obtain rfl := execReset_next.1 hx
    obtain rfl := execReset_next.1 hx'
    exact h.engineReset

/-! ### Every step -/

/-- A move that runs no instruction changes at most bytes of the caller. -/
theorem moveWithoutInstr_sameButSecrets {e : Event} (h : moveWithoutInstr e s = .next t) :
    SameButSecrets s t := by
  rcases moveWithoutInstr_next h with ⟨sp, j, bs, -, rfl, -⟩ | rfl
  · cases sp <;> exact ⟨rfl, rfl, rfl, rfl, rfl, rfl, rfl, rfl, rfl⟩
  · exact ⟨rfl, rfl, rfl, rfl, rfl, rfl, rfl, rfl, rfl⟩

theorem step_sameButSecrets (h : SameButSecrets s s')
    (hd : ¬ (s.phase = .outerWait ∧ (nextEvent s = .advance ∨ ∃ g, nextEvent s = .respond g)))
    (hx : step s = .next t) (hx' : step s' = .next t') : SameButSecrets t t' := by
  have ha := h.afterEvent
  have hsel : eventInstr (nextEvent s') (afterEvent s') = eventInstr (nextEvent s) (afterEvent s) := by
    rw [h.nextEvent, ha.eventInstr]
  have hw := (step_next.1 hx).1
  have hw' := (step_next.1 hx').1
  cases hi : eventInstr (nextEvent s) (afterEvent s) with
  | none =>
    rw [step_moves hw hi] at hx
    rw [step_moves hw' (hsel.trans hi)] at hx'
    exact ((moveWithoutInstr_sameButSecrets hx).symm.trans ha).trans
      (moveWithoutInstr_sameButSecrets hx')
  | some i =>
    rw [step_runs hw hi] at hx
    rw [step_runs hw' (hsel.trans hi)] at hx'
    exact exec_sameButSecrets ha hd hi hx hx'

/-- Settles O53: both states run the same instruction, or none, and agree up to the secrets after it;
STATUS and TAG are no secrets. -/
theorem hostSeesNoSecretBeforeTheTag : Obligations.HostSeesNoSecretBeforeTheTag := by
  intro s s' t t' h hd hx hx'
  have ht := step_sameButSecrets h hd hx hx'
  exact ⟨ht, ht.hostView⟩

end Sys2Proof.Machine
end

section
/-! SUPPORT. The caller spaces: the HOST alone writes them, and no byte an invocation borrows (R30 to
R33, R39). -/

namespace Sys2Proof.Machine

variable {s t : State} {sp : Space} {bs : Bytes} {es : List Event} {j : Nat}

/-! ### The HOST's placing of bytes -/

/-- Placing bytes changes nothing of the engine. -/
theorem placeBytes_frame (s : State) (sp : Space) (j : Nat) (bs : Bytes) :
    s.placeBytes sp j bs =
      { s with keyMem := (s.placeBytes sp j bs).keyMem, msgMem := (s.placeBytes sp j bs).msgMem } := by
  cases sp <;> rfl

/-- A placed byte reads as placed. -/
theorem readByte_placeBytes_inside {k : Nat} (hk : k < bs.length) :
    (s.placeBytes sp j bs).readByte sp (j + k) = bs[k]? := by
  rw [readByte_placeBytes, if_pos ⟨rfl, by omega, by omega⟩, Nat.add_sub_cancel_left]

/-- A byte outside the placed range, or of the other space, reads as before. -/
theorem readByte_placeBytes_outside {sp' : Space} {k : Nat}
    (h : sp' = sp → k < j ∨ j + bs.length ≤ k) :
    (s.placeBytes sp j bs).readByte sp' k = s.readByte sp' k := by
  rw [readByte_placeBytes, if_neg]
  rintro ⟨hsp, hlo, hhi⟩
  rcases h hsp with hk | hk <;> omega

theorem placeBytes_wf (hkey : Memory.wf s.keyMem = true) (hmsg : Memory.wf s.msgMem = true) :
    Memory.wf (s.placeBytes sp j bs).keyMem = true ∧ Memory.wf (s.placeBytes sp j bs).msgMem = true := by
  cases sp
  · exact ⟨writeAll_wf _ j bs hkey, hmsg⟩
  · exact ⟨hkey, writeAll_wf _ j bs hmsg⟩

/-- A `place` move is refused on a borrowed byte while busy, and places its bytes otherwise (log 7). -/
theorem step_place (hw : s.inst.wf = true) (he : s.events = .place sp j bs :: es) :
    step s = if s.busy = true ∧ j < s.borrowed sp ∧ bs ≠ [] then .refused .borrowedByteWritten
      else .next (State.placeBytes { s with events := es } sp j bs) := by
  have hborrowed : State.borrowed { s with events := es } sp = s.borrowed sp := by cases sp <;> rfl
  have hbusy : State.busy { s with events := es } = s.busy := rfl
  rw [step_moves hw (by rw [nextEvent_cons he]; rfl), nextEvent_cons he, afterEvent_cons he]
  simp [moveWithoutInstr, hborrowed, hbusy, and_assoc]

/-- Settles O11: the move is refused exactly on a borrowed byte while busy, and a placing writes its range
of its space alone. -/
theorem hostPlacesBytes : Obligations.HostPlacesBytes := by
  intro s sp j bs es hw he
  refine ⟨fun hfree => ?_, fun hb hj hbs => (step_place hw he).trans (if_pos ⟨hb, hj, hbs⟩)⟩
  have hnot : ¬ (s.busy = true ∧ j < s.borrowed sp ∧ bs ≠ []) := by
    rintro ⟨hb, hj, -⟩
    rcases hfree with h | h
    · exact absurd hb (by simp [h])
    · omega
  exact ⟨_, (step_place hw he).trans (if_neg hnot), placeBytes_frame _ _ _ _,
    fun k hk => readByte_placeBytes_inside hk,
    fun k hk => readByte_placeBytes_outside fun _ => hk,
    fun sp' k hsp => readByte_placeBytes_outside fun h => absurd h hsp⟩

/-! ### Every instruction, and every step -/

/-- Settles O47: no effect of an instruction touches the content of a caller space. -/
theorem engineNeverWritesCallerSpaces : Obligations.EngineNeverWritesCallerSpaces := by
  intro i s t h
  obtain ⟨-, hkey, hmsg, -⟩ := effect_surroundings (exec_effect h)
  exact sameMemory_of_eq hkey hmsg

/-- A step leaves both caller spaces alone, or is the HOST's placing of bytes that are not borrowed. -/
theorem step_spaces (h : step s = .next t) :
    (t.keyMem = s.keyMem ∧ t.msgMem = s.msgMem) ∨
      ∃ sp j bs, t = (afterEvent s).placeBytes sp j bs ∧
        (s.busy = true → bs ≠ [] → s.borrowed sp ≤ j) := by
  rcases step_effect h with ⟨i, -, he⟩ | ⟨sp, j, bs, -, ht, hfree⟩ | ⟨-, rfl⟩
  · obtain ⟨-, hkey, hmsg, -⟩ := effect_surroundings he
    exact .inl ⟨hkey, hmsg⟩
  · exact .inr ⟨sp, j, bs, ht, hfree⟩
  · exact .inl ⟨rfl, rfl⟩

/-- Settles O48: of all steps only the HOST's placing writes a caller space, and while busy it begins at
or beyond the end of the borrowed bytes, or places none. -/
theorem borrowedBytesStay : Obligations.BorrowedBytesStay := by
  intro s t hb h sp k hk
  rcases step_spaces h with ⟨hkey, hmsg⟩ | ⟨sp', j, bs, rfl, hfree⟩
  · exact sameMemory_of_eq hkey hmsg sp k
  · refine readByte_placeBytes_outside (s := afterEvent s) fun hsp => ?_
    subst hsp
    rcases eq_or_ne bs [] with rfl | hbs
    · exact Nat.lt_or_ge k j
    · exact .inl (hk.trans_le (hfree hb hbs))

/-- Settles O50: a step leaves both lists alone or writes bytes into one of them. -/
theorem stepKeepsMemoryCanonical : Obligations.StepKeepsMemoryCanonical := by
  intro s t hkey hmsg h
  rcases step_spaces h with ⟨hk, hm⟩ | ⟨sp, j, bs, rfl, -⟩
  · exact ⟨by rw [hk, hkey], by rw [hm, hmsg]⟩
  · exact placeBytes_wf (s := afterEvent s) hkey hmsg

end Sys2Proof.Machine
end

section
/-! SUPPORT. The codes of PHASE and ERR, and what the decoder answers on each format (30_encoding.md). -/

namespace Sys2Proof

variable {c : Inst} {cmp : Ordering} {i : Instr} {p : Phase}

/-! ### The codes of PHASE and ERR, and the selectors -/

/-- The codes 11 to 15 name no phase (R50, R56). -/
theorem phaseOfCode_reserved : ∀ code : BitVec 4, 11 ≤ code.toNat → phaseOfCode code = none := by
  decide

theorem phaseCode_le (p : Phase) : (phaseCode p).toNat ≤ 10 := by
  cases p <;> decide

@[simp] theorem errOfCode_errCode (e : ErrCode) : errOfCode (errCode e) = some e := by
  cases e <;> rfl

theorem errCode_le (e : ErrCode) : (errCode e).toNat ≤ 2 := by
  cases e <;> decide

/-- Settles O1: the codes are the spec's, reading a code undoes writing it, and the rest name nothing. -/
theorem phaseAndErrCodes : Obligations.PhaseAndErrCodes :=
  ⟨⟨rfl, rfl, rfl, rfl, rfl, rfl, rfl, rfl, rfl, rfl, rfl⟩,
    fun p => ⟨Machine.phaseOfCode_phaseCode p, phaseCode_le p⟩, phaseOfCode_reserved,
    ⟨rfl, rfl, rfl⟩, fun e => ⟨errOfCode_errCode e, errCode_le e⟩, rfl⟩

/-- The code of a phase decodes to the micro-operation the phase selects (R59). -/
theorem decode_selector (c : Inst) (cmp : Ordering) (p : Phase) :
    decode c cmp (.selector (phaseCode p)) = microOp p cmp := by
  simp [decode]

/-- A micro-operation is encoded as the code of the phase that selects it (R59). -/
theorem encode_of_microOp (h : microOp p cmp = .ok i) : encode i = .selector (phaseCode p) := by
  cases p
  case keynorm => cases cmp <;> cases h <;> rfl
  all_goals cases h <;> rfl

theorem decode_encode_of_microOp (h : microOp p cmp = .ok i) : decode c cmp (encode i) = .ok i := by
  rw [encode_of_microOp h, decode_selector, h]

/-! ### The descriptor -/

theorem decodeDescriptor_compute (klen mlen : Nat) :
    decodeDescriptor { op := computeOp, klen := klen, mlen := mlen } = .ok (.compute klen mlen) :=
  if_pos rfl

/-- R47: an `op` other than 0x01 is refused by name. -/
theorem decodeDescriptor_reserved {d : Descriptor} (h : d.op ≠ computeOp) :
    decodeDescriptor d = .error (.reservedOp d.op) :=
  if_neg h

theorem decodeDescriptor_eq_ok {d : Descriptor} :
    decodeDescriptor d = .ok i ↔ d.op = computeOp ∧ i = .compute d.klen d.mlen := by
  by_cases h : d.op = computeOp <;> simp [decodeDescriptor, h, eq_comm]

/-- A descriptor decodes by its `op` if its lengths have `LW` bits (R45). -/
theorem decode_descriptor {d : Descriptor} (hk : c.lengthFits d.klen = true)
    (hm : c.lengthFits d.mlen = true) : decode c cmp (.descriptor d) = decodeDescriptor d := by
  simp [decode, hk, hm]

/-! ### The hash frames -/

/-- A request frame with a wrong or an empty length field is refused by name (R52, R100). -/
theorem decode_requestFrame_bad {n : Nat} {data : Bytes} (h : ¬ (n = data.length ∧ 1 ≤ n)) :
    decode c cmp (.requestFrame n data) = .error .badRequestLength := by
  simp only [decode, if_neg h]

/-- A request frame with its exact length field decodes if that field has `LW + 1` bits (R52). -/
theorem decode_requestFrame {n : Nat} {data : Bytes} (h : n = data.length ∧ 1 ≤ n) :
    decode c cmp (.requestFrame n data) =
      if c.requestLengthFits n then .ok (.hashreq n data) else .error .requestLengthNotExpressible := by
  simp only [decode, if_pos h]

theorem decode_requestFrame_eq_ok {n : Nat} {data : Bytes} :
    decode c cmp (.requestFrame n data) = .ok (.hashreq n data) ↔
      n = data.length ∧ 1 ≤ n ∧ c.requestLengthFits n = true := by
  by_cases h : n = data.length ∧ 1 ≤ n
  · rw [decode_requestFrame h, ← and_assoc, and_iff_right h]
    cases c.requestLengthFits n <;> simp
  · rw [decode_requestFrame_bad h]
    simp only [reduceCtorEq, false_iff]
    exact fun ⟨hn, hpos, _⟩ => h ⟨hn, hpos⟩

/-- A response frame decodes if it has exactly `H` bytes (R53). -/
theorem decode_responseFrame (c : Inst) (cmp : Ordering) (g : Bytes) :
    decode c cmp (.responseFrame g) =
      if g.length = c.H then .ok (.hashrsp g) else .error .badResponseLength := rfl

/-- Settles O6: the decoder checks the length field of a request, then its width, and the length of a
response. -/
theorem hashFramesAreExact : Obligations.HashFramesAreExact := by
  intro c cmp
  refine ⟨fun n data => ⟨?_, fun h => decode_requestFrame_bad (by omega), fun w hn hpos hw hlong => ?_⟩,
    fun g => ⟨fun h => if_pos h, fun h => if_neg h⟩⟩
  · rw [decode_requestFrame_eq_ok, Machine.requestLengthFits_iff]
  · rw [decode_requestFrame ⟨hn, hpos⟩]
    exact if_neg fun hf => Nat.not_lt.2 hlong (Machine.requestLengthFits_iff.1 hf w hw)

end Sys2Proof
end

section
/-! SUPPORT. The CMD word: three fields that do not overlap (R45 to R47). -/

namespace Sys2Proof

variable {i : Instr}

/-- The low two fields of a CMD word make its remainder, the high one its quotient (R45). -/
theorem cmdFields_sum (lw w : Nat) :
    w % 2 ^ 8 + 2 ^ 8 * (w / 2 ^ 8 % 2 ^ lw) + 2 ^ (8 + lw) * (w / 2 ^ (8 + lw)) = w := by
  rw [← Nat.mod_mul, ← pow_add, Nat.mod_add_div]

/-- The high field of a word of `8 + 2*LW` bits has `LW` bits (R45). -/
theorem highField_lt {lw w : Nat} (h : w < 2 ^ (8 + 2 * lw)) : w / 2 ^ (8 + lw) < 2 ^ lw := by
  rw [Nat.div_lt_iff_lt_mul (by positivity), ← pow_add]
  exact h.trans_eq (by ring)

theorem unpackCmd_of_lt {lw w : Nat} (h : w < 2 ^ (8 + 2 * lw)) :
    unpackCmd lw w = .ok { op := BitVec.ofNat 8 (w % 2 ^ 8), klen := w / 2 ^ 8 % 2 ^ lw,
                           mlen := w / 2 ^ (8 + lw) } :=
  if_pos h

/-- The packed word is read digit by digit: `op` in base `2^8`, then `klen` in base `2^LW` (R45). -/
theorem packCmd_digits (lw : Nat) (d : Descriptor) :
    packCmd lw d = d.op.toNat + 2 ^ 8 * (d.klen + 2 ^ lw * d.mlen) := by
  rw [packCmd]
  ring

/-- Unpacking takes apart three fields that do not overlap (R45). -/
theorem unpackCmd_packCmd {lw : Nat} {d : Descriptor} (hk : d.klen < 2 ^ lw) (hm : d.mlen < 2 ^ lw) :
    unpackCmd lw (packCmd lw d) = .ok d := by
  have hop : d.op.toNat < 2 ^ 8 := d.op.isLt
  have hlow : packCmd lw d % 2 ^ 8 = d.op.toNat := by
    rw [packCmd_digits, Nat.add_mul_mod_self_left, Nat.mod_eq_of_lt hop]
  have hhigh : packCmd lw d / 2 ^ 8 = d.klen + 2 ^ lw * d.mlen := by
    rw [packCmd_digits, Nat.add_mul_div_left _ _ (by positivity), Nat.div_eq_of_lt hop, zero_add]
  have hklen : packCmd lw d / 2 ^ 8 % 2 ^ lw = d.klen := by
    rw [hhigh, Nat.add_mul_mod_self_left, Nat.mod_eq_of_lt hk]
  have hmlen : packCmd lw d / 2 ^ (8 + lw) = d.mlen := by
    rw [pow_add, ← Nat.div_div_eq_div_mul, hhigh, Nat.add_mul_div_left _ _ (by positivity),
      Nat.div_eq_of_lt hk, zero_add]
  have hlt : packCmd lw d < 2 ^ (8 + 2 * lw) := by
    rw [show 8 + 2 * lw = lw + (8 + lw) by omega, pow_add, ← Nat.div_lt_iff_lt_mul (by positivity), hmlen]
    exact hm
  rw [unpackCmd_of_lt hlt, hlow, hklen, hmlen, BitVec.ofNat_toNat, BitVec.setWidth_eq]

/-- Unpacking a CMD word and packing its fields are inverse (R45). -/
theorem unpackCmd_eq_ok {lw w : Nat} {d : Descriptor} :
    unpackCmd lw w = .ok d ↔ d.klen < 2 ^ lw ∧ d.mlen < 2 ^ lw ∧ packCmd lw d = w := by
  constructor
  · intro h
    by_cases hw : w < 2 ^ (8 + 2 * lw)
    · rw [unpackCmd_of_lt hw] at h
      cases h
      refine ⟨Nat.mod_lt _ (by positivity), highField_lt hw, ?_⟩
      simp only [packCmd, BitVec.toNat_ofNat, Nat.mod_mod, cmdFields_sum]
    · simp [unpackCmd, hw] at h
  · rintro ⟨hk, hm, rfl⟩
    exact unpackCmd_packCmd hk hm

/-- Decoding a CMD word is unpacking it, then reading its `op` (R46). -/
theorem decodeCmdWord_iff_fields {lw w : Nat} :
    decodeCmdWord lw w = .ok i ↔ ∃ d, unpackCmd lw w = .ok d ∧ decodeDescriptor d = .ok i := by
  unfold decodeCmdWord
  cases unpackCmd lw w <;> simp

/-- A CMD word decodes exactly if it is the packed COMPUTE with two lengths of `LW` bits (R45 to R47). -/
theorem decodeCmdWord_eq_ok {lw w : Nat} :
    decodeCmdWord lw w = .ok i ↔
      ∃ klen mlen, i = .compute klen mlen ∧ klen < 2 ^ lw ∧ mlen < 2 ^ lw ∧
        computeWord lw klen mlen = w := by
  simp only [decodeCmdWord_iff_fields, unpackCmd_eq_ok, decodeDescriptor_eq_ok, computeWord]
  constructor
  · rintro ⟨⟨op, klen, mlen⟩, ⟨hk, hm, hw⟩, rfl, hi⟩
    exact ⟨klen, mlen, hi, hk, hm, hw⟩
  · rintro ⟨klen, mlen, hi, hk, hm, hw⟩
    exact ⟨_, ⟨hk, hm, hw⟩, rfl, hi⟩

theorem decodeCmdWord_computeWord {lw klen mlen : Nat} (hk : klen < 2 ^ lw) (hm : mlen < 2 ^ lw) :
    decodeCmdWord lw (computeWord lw klen mlen) = .ok (.compute klen mlen) :=
  decodeCmdWord_eq_ok.2 ⟨klen, mlen, rfl, hk, hm, rfl⟩

/-- Settles O4: a word that decodes is a packed COMPUTE. -/
theorem cmdWordsHaveOneMeaning : Obligations.CmdWordsHaveOneMeaning := by
  intro lw w i h
  obtain ⟨klen, mlen, hi, hk, hm, rfl⟩ := decodeCmdWord_eq_ok.1 h
  exact ⟨klen, mlen, hi, hk, hm, rfl⟩

/-- Settles O3: a remainder keeps the low bits of a word, a quotient shifts them out. -/
theorem cmdFieldsAreBitRanges : Obligations.CmdFieldsAreBitRanges := by
  intro lw w hw
  refine ⟨_, unpackCmd_of_lt hw, fun j hj => ?_, fun j => ?_, fun j => ?_⟩
  · rw [BitVec.getLsbD_ofNat, Nat.testBit_mod_two_pow]
    simp [hj]
  · rw [Nat.testBit_mod_two_pow, Nat.testBit_div_two_pow, Nat.add_comm]
  · rw [← Nat.mod_eq_of_lt (highField_lt hw), Nat.testBit_mod_two_pow, Nat.testBit_div_two_pow,
      Nat.add_comm j]

end Sys2Proof
end

section
/-! SUPPORT. Decoding undoes encoding, for every instruction and for the words the spec writes out. -/

namespace Sys2Proof

variable {c : Inst} {cmp : Ordering} {i : Instr}

/-- A well-formed instruction under its own comparison of `KLEN` with `B` survives the round trip. -/
theorem decode_encode (hw : i.wf c = true) (hs : selectedUnder i cmp = true) :
    decode c cmp (encode i) = .ok i := by
  cases i with
  | compute klen mlen =>
    obtain ⟨hk, hm⟩ : c.lengthFits klen = true ∧ c.lengthFits mlen = true := by simpa [Instr.wf] using hw
    exact (decode_descriptor hk hm).trans (decodeDescriptor_compute klen mlen)
  | keynormLong =>
    obtain rfl : cmp = .gt := by simpa [selectedUnder] using hs
    exact decode_encode_of_microOp (p := .keynorm) rfl
  | keynormShort =>
    obtain rfl : cmp = .lt := by simpa [selectedUnder] using hs
    exact decode_encode_of_microOp (p := .keynorm) rfl
  | keynormEqual =>
    obtain rfl : cmp = .eq := by simpa [selectedUnder] using hs
    exact decode_encode_of_microOp (p := .keynorm) rfl
  | keyhashRsp => exact decode_encode_of_microOp (p := .keyhashWait) rfl
  | pads => exact decode_encode_of_microOp (p := .pads) rfl
  | innerReq => exact decode_encode_of_microOp (p := .inner) rfl
  | innerRsp => exact decode_encode_of_microOp (p := .innerWait) rfl
  | outerReq => exact decode_encode_of_microOp (p := .outer) rfl
  | outerRsp => exact decode_encode_of_microOp (p := .outerWait) rfl
  | hashreq n data => exact decode_requestFrame_eq_ok.2 (by simpa [Instr.wf, and_assoc] using hw)
  | hashrsp g => exact (decode_responseFrame c cmp g).trans (if_pos (by simpa [Instr.wf] using hw))
  | reset => rfl

/-- Settles O5: format by format for the codes, and digit by digit for the packed CMD word. -/
theorem decodeUndoesEncode : Obligations.DecodeUndoesEncode :=
  ⟨fun _ _ _ => decode_encode, fun _ _ _ => decodeCmdWord_computeWord⟩

/-- Settles O2: the spec's descriptors are packed COMPUTE words, and its selectors the codes of phases. -/
theorem wordsOfTheSpecDecode : Obligations.WordsOfTheSpecDecode := by
  refine ⟨decodeCmdWord_computeWord (klen := 1) (mlen := 1) (by decide) (by decide),
    decodeCmdWord_computeWord (klen := 9) (mlen := 5) (by decide) (by decide),
    decodeCmdWord_computeWord (klen := 80) (mlen := 20) (by decide) (by decide),
    rfl, rfl, rfl, fun c => ⟨?_, ?_, ?_, ?_, ?_, ?_, ?_, ?_, rfl⟩⟩
  · exact decode_selector c .gt .keynorm
  · exact decode_selector c .lt .keynorm
  · exact decode_selector c .eq .keynorm
  · exact decode_selector c .lt .keyhashWait
  · exact decode_selector c .lt .pads
  · exact decode_selector c .lt .inner
  · exact decode_selector c .lt .outer
  · exact decode_selector c .lt .outerWait

end Sys2Proof
end

section
/-! SUPPORT. What the codes select in a state, and where a micro-operation completes (R47, R59). -/

namespace Sys2Proof.Machine

variable {s t : State} {i : Instr}

/-- The micro-operation PHASE and KLEN against B select is what `advance` runs (R59, R70). -/
theorem eventInstr_advance_of_microOp (h : microOp s.phase s.klenCmp = .ok i) :
    eventInstr .advance s = some i :=
  eventInstr_eq_some.2 (.inl ⟨rfl, h⟩)

/-- Settles O8: `advance` runs what `microOp` gives for PHASE and the comparison of KLEN with B. -/
theorem selectorsOfMicroOperations : Obligations.SelectorsOfMicroOperations := by
  intro s
  refine ⟨fun hp hk => ?_, fun hp hk => ?_, fun hp hk => ?_, fun hp => ?_, fun hp => ?_, fun hp => ?_,
    fun hp => ?_, fun hp => ?_, fun hp => ?_, fun hp => ?_⟩
  · exact eventInstr_advance_of_microOp (by rw [hp, klenCmp_gt.2 hk]; rfl)
  · exact eventInstr_advance_of_microOp (by rw [hp, klenCmp_lt.2 hk]; rfl)
  · exact eventInstr_advance_of_microOp (by rw [hp, klenCmp_eq.2 hk]; rfl)
  iterate 6 exact eventInstr_advance_of_microOp (by rw [hp]; rfl)
  · rw [eventInstr_advance]
    rcases hp with h | h | h | h <;> rw [h] <;> rfl

/-- Settles O12: a reserved `op` decodes to no command, and the move has no effect of its own. -/
theorem reservedOpIsIgnored : Obligations.ReservedOpIsIgnored := by
  intro d hop
  refine ⟨decodeDescriptor_reserved hop, fun s es hw he => ?_⟩
  have hnone : eventInstr (nextEvent s) (afterEvent s) = none := by
    rw [nextEvent_cons he, eventInstr_command, if_neg (show ¬ d.op = computeOp from hop)]
  rw [step_moves hw hnone, nextEvent_cons he, afterEvent_cons he]
  rfl

/-- Settles O51: the conditions under which each micro-operation answers a next state begin with its
selector. -/
theorem microOperationsNeedTheirSelector : Obligations.MicroOperationsNeedTheirSelector := by
  intro s t
  refine ⟨fun h => ?_, fun h => ?_, fun h => ?_, fun h => ?_, fun h => ?_, fun h => ?_, fun h => ?_,
    fun h => ?_, fun h => ?_⟩
  · obtain ⟨hp, hk, -⟩ := execKeynormLong_next.1 h
    exact ⟨hp, hk⟩
  · obtain ⟨hp, hk, -⟩ := execKeynormShort_next.1 h
    exact ⟨hp, hk⟩
  · obtain ⟨hp, hk, -⟩ := execKeynormEqual_next.1 h
    exact ⟨hp, hk⟩
  · obtain ⟨hp, q, hq, -⟩ := execKeyhashRsp_next.1 h
    exact ⟨hp, Option.isSome_of_eq_some hq⟩
  · exact (execPads_next.1 h).1
  · exact (execInnerReq_next.1 h).1
  · obtain ⟨hp, q, hq, -⟩ := execInnerRsp_next.1 h
    exact ⟨hp, Option.isSome_of_eq_some hq⟩
  · exact (execOuterReq_next.1 h).1
  · obtain ⟨hp, q, hq, -⟩ := execOuterRsp_next.1 h
    exact ⟨hp, Option.isSome_of_eq_some hq⟩

end Sys2Proof.Machine
end

section
/-! SUPPORT. The two registers the HOST reads: STATUS (R23, R49) and TAG (R54). -/

namespace Sys2Proof.Machine

variable {s : State}

/-! ### STATUS -/

theorem status_phaseField (s : State) : s.status.extractLsb' 0 4 = phaseCode s.phase :=
  BitVec.extractLsb'_append_eq_right

theorem status_errField (s : State) : s.status.extractLsb' 4 2 = errCode s.err := by
  rw [status_eq, BitVec.extractLsb'_append_eq_of_le (by decide)]
  exact BitVec.extractLsb'_append_eq_right

theorem status_tagvBit (s : State) : s.status.getLsbD 6 = s.tagv := by
  rw [status_eq, BitVec.getLsbD_append, BitVec.getLsbD_append, BitVec.getLsbD_append]
  simp

theorem status_busyBit (s : State) : s.status.getLsbD 7 = s.busy := by
  rw [status_eq, BitVec.getLsbD_append, BitVec.getLsbD_append, BitVec.getLsbD_append]
  simp [State.busy]

/-- The error that stands in ERR in each phase (R22). -/
def phaseErr (p : Phase) : ErrCode :=
  if p = .failed then .allocationFailure
  else if p = .dead then .invalidHashParameters
  else .noError

/-- In a state of the invariant PHASE determines TAGV and ERR (R22). -/
theorem State.Inv.flags_of_phase (hs : s.Inv) :
    s.tagv = decide (s.phase = .done) ∧ s.err = phaseErr s.phase := by
  obtain ⟨htagv, halloc, hinvalid⟩ := hs.flags
  refine ⟨Bool.eq_iff_iff.2 (by simp [htagv]), ?_⟩
  cases he : s.err with
  | noError =>
    have hfailed : s.phase ≠ .failed := by simp [← halloc, he]
    have hdead : s.phase ≠ .dead := by simp [← hinvalid, he]
    rw [phaseErr, if_neg hfailed, if_neg hdead]
  | invalidHashParameters => rw [hinvalid.1 he]; rfl
  | allocationFailure => rw [halloc.1 he]; rfl

/-- In a state of the invariant STATUS is a function of PHASE (R49). -/
theorem State.Inv.status_of_phase (hs : s.Inv) :
    s.status = BitVec.ofBool (phaseBusy s.phase) ++ BitVec.ofBool (decide (s.phase = .done))
      ++ errCode (phaseErr s.phase) ++ phaseCode s.phase := by
  obtain ⟨htagv, herr⟩ := hs.flags_of_phase
  rw [status_eq, htagv, herr]

/-- Settles O36: STATUS is the four fields side by side, and under the invariant PHASE gives them all. -/
theorem statusFormat : Obligations.StatusFormat := by
  refine ⟨fun s => ⟨status_phaseField s, status_errField s, status_tagvBit s, status_busyBit s⟩,
    fun s hs => ?_⟩
  rw [hs.status_of_phase]
  refine ⟨fun hp => ?_, fun hp => ?_, fun hp => ?_, fun hp => ?_, fun hp => ?_, fun hp => ?_,
    fun hp => ?_, fun hp => ?_, fun hp => ?_, fun hp => ?_, fun hp => ?_⟩
  all_goals
    rw [hp]
    rfl

/-! ### TAG -/

theorem readTag_of_lt {j : Nat} (hs : s.Inv) (h : j < s.inst.H) : s.readTag j = s.tag[j]? := by
  obtain ⟨-, -, -, -, -, htag⟩ := hs.sizes
  have hj : j < s.tag.length := htag ▸ h
  simp [State.readTag, h, hj]

/-- Settles O38: the invariant gives TAG its length, and its zeros while TAGV is 0. -/
theorem tagReadsExactlyH : Obligations.TagReadsExactlyH := by
  intro s hs
  obtain ⟨-, -, -, -, -, htag⟩ := hs.sizes
  refine ⟨htag, fun j => ⟨fun h => if_neg (Nat.not_lt.2 h), fun h => ⟨readTag_of_lt hs h, fun hv => ?_⟩⟩⟩
  rw [readTag_of_lt hs h, hs.tagClear hv, zeros_getElem? h]

end Sys2Proof.Machine
end

section
/-! SUPPORT. What a running invocation carries, on every interleaving of moves (R63): every step keeps the
reference values, and the step that ends an invocation delivers the tag. -/

namespace Sys2Proof.Machine

variable {s t : State} {i : Instr} {sp : Space} {bs : Bytes} {j : Nat}

/-! ### Moves that run no instruction -/

/-- Taking a move off the list changes nothing `Carries` speaks of. -/
theorem afterEvent_carries (hc : s.Carries) : (afterEvent s).Carries := hc

/-- `Carries` speaks of the caller spaces only through the key and the message. -/
theorem State.Carries.with_memory {key msg : Memory} (hc : s.Carries)
    (hkey : State.keyBytes { s with keyMem := key, msgMem := msg } = s.keyBytes)
    (hmsg : State.msgBytes { s with keyMem := key, msgMem := msg } = s.msgBytes) :
    State.Carries { s with keyMem := key, msgMem := msg } := by
  unfold State.Carries at hc ⊢
  rw [hkey, hmsg]
  exact hc

/-- A placing that leaves the borrowed bytes alone leaves the key and the message alone; not busy, the
engine carries nothing. -/
theorem placeBytes_carries (hc : s.Carries)
    (hstay : s.busy = true → ∀ sp' k, k < s.borrowed sp' →
      (s.placeBytes sp j bs).readByte sp' k = s.readByte sp' k) : (s.placeBytes sp j bs).Carries := by
  cases hb : s.busy with
  | false => exact carries_of_not_busy (by rw [placeBytes_frame]; exact hb)
  | true =>
    have hread (sp' : Space) : (s.placeBytes sp j bs).memRead sp' 0 (s.borrowed sp') =
        s.memRead sp' 0 (s.borrowed sp') :=
      memRead_congr fun k hk => hstay hb sp' (0 + k) ((Nat.zero_add k).symm ▸ hk)
    rw [placeBytes_frame] at hread ⊢
    exact hc.with_memory (hread .key) (hread .msg)

/-! ### Every step -/

/-- Settles O41: an instruction keeps the reference values, `K0` having its size by the invariant; so do
the HOST's placing, which cannot reach a borrowed byte, and a move without effect. -/
theorem stepKeepsTheReferenceValues : Obligations.StepKeepsTheReferenceValues := by
  intro s t hs hc h
  have ha := afterEvent_carries hc
  rcases step_effect h with ⟨i, -, he⟩ | ⟨sp, j, bs, -, rfl, -⟩ | ⟨-, rfl⟩
  · obtain ⟨hk0, -⟩ := hs.sizes
    exact effect_carries (s := afterEvent s) (fun _ => hk0) ha he
  · exact placeBytes_carries ha fun hb sp' => borrowedBytesStay s _ hb h sp'
  · exact ha

/-! ### The step that ends an invocation -/

/-- DONE is entered by the delivery of a tag alone (R91). -/
theorem effect_done (h : Effect s t i) (hp : s.phase ≠ .done) (hd : t.phase = .done) :
    ∃ q, s.hreq = some q ∧ t = storeTag (hashOf s.inst q) (s.setHreq none) := by
  cases h with
  | delivered i q hi h hq e => exact ⟨q, hq, e⟩
  | ignored k m h e => exact absurd (e ▸ hd) hp
  | wasReset e =>
    rw [e, engineReset_phase] at hd
    split at hd <;> cases hd
  | started _ _ _ _ _ e | failed _ _ _ _ e | keySent _ _ _ _ _ e | keyPadded _ _ e | keyCopied _ _ e
  | keyDigest _ _ _ _ _ e | padded _ e | innerSent _ _ _ _ e | innerDigest _ _ _ _ _ e
  | outerSent _ _ _ _ e =>
    subst e
    cases hd

/-- Settles O42: the step delivers the answer to the outstanding request, which is the outer request of
R9. -/
theorem completionDeliversHmac : Obligations.CompletionDeliversHmac := by
  intro s t hs hc h hp hd
  have hwait : (afterEvent s).phase ≠ .done := by simp [afterEvent, hp]
  rcases step_effect h with ⟨i, -, he⟩ | ⟨sp, j, bs, -, rfl, -⟩ | ⟨-, rfl⟩
  · obtain ⟨q, hq, rfl⟩ := effect_done he hwait hd
    have hreq : s.hreq = some (outerRequest s.inst s.keyBytes s.msgBytes) :=
      (carries_outerWait hp).1 hc
    obtain rfl := Option.some.inj (hq.symm.trans hreq)
    exact ⟨rfl, hashOf_length _ _, rfl⟩
  · rw [placeBytes_frame] at hd
    exact absurd hd hwait
  · exact absurd hd hwait

end Sys2Proof.Machine
end

section
/-! SUPPORT. Which keys have the same tag by the engine's own data path (R67). -/

namespace Sys2Proof.Machine

variable {c : Inst} {key key' : Bytes}

/-- A key of at most one block is filled with zeros up to the block. -/
theorem blockSizedKey_of_le (h : key.length ≤ c.B) :
    blockSizedKey c key = key ++ zeros (c.B - key.length) := by
  unfold blockSizedKey
  rw [if_neg (Nat.not_lt.2 h)]
  split
  · rfl
  · rw [show c.B - key.length = 0 by omega, zeros_zero, List.append_nil]

theorem blockSizedKey_of_gt (h : c.B < key.length) :
    blockSizedKey c key = hashOf c key ++ zeros (c.B - c.H) := if_pos h

/-- The tag depends on the key through `K0` alone. -/
theorem hmac_congr (h : blockSizedKey c key = blockSizedKey c key') (msg : Bytes) :
    hmac c key msg = hmac c key' msg := by
  unfold hmac outerRequest innerRequest
  rw [h]

/-- A zero byte at the end of a short key is one the padding would add. -/
theorem blockSizedKey_append_zero (h : key.length + 1 ≤ c.B) :
    blockSizedKey c (key ++ [0]) = blockSizedKey c key := by
  have hpad : zeros (c.B - key.length) = [0] ++ zeros (c.B - (key.length + 1)) := by
    rw [show c.B - key.length = (c.B - (key.length + 1)) + 1 by omega]
    rfl
  rw [blockSizedKey_of_le (by simpa using h), blockSizedKey_of_le (by omega), hpad]
  simp

/-- A long key is replaced by its digest, which is a key of at most one block. -/
theorem blockSizedKey_hashOf (hv : c.H ≤ c.B) (h : c.B < key.length) :
    blockSizedKey c (hashOf c key) = blockSizedKey c key := by
  rw [blockSizedKey_of_le (by simpa using hv), blockSizedKey_of_gt h, hashOf_length]

/-- Settles O54: the inner request ends in the message, and the tag depends on the key through `K0`. -/
theorem keysWithTheSameTag : Obligations.KeysWithTheSameTag := by
  intro c msg msg' key key'
  refine ⟨fun hne h => hne (List.append_cancel_left h), fun hk hk' => ?_,
    fun h => hmac_congr (blockSizedKey_append_zero h) msg,
    fun hv h => hmac_congr (blockSizedKey_hashOf hv h) msg⟩
  rw [blockSizedKey_of_le hk, blockSizedKey_of_le hk']
  rfl

end Sys2Proof.Machine
end

section
/-! SUPPORT. The command COMPUTE, phase by phase (R60 to R62, R68). -/

namespace Sys2Proof.Machine

variable {s : State} {klen mlen : Nat}

/-! ### What the command answers -/

/-- A command whose lengths a descriptor can hold is accepted when ready, and has no effect otherwise. -/
theorem exec_compute_of_lengths (hf : ∀ w, s.inst.lw = some w → klen < 2 ^ w ∧ mlen < 2 ^ w) :
    exec (.compute klen mlen) s =
      .next (if phaseReady s.phase then acceptCompute klen mlen s else s) :=
  execCompute_next.2 ⟨⟨lengthFits_iff.2 fun w h => (hf w h).1, lengthFits_iff.2 fun w h => (hf w h).2⟩,
    rfl⟩

theorem exec_compute_of_not_ready (hf : ∀ w, s.inst.lw = some w → klen < 2 ^ w ∧ mlen < 2 ^ w)
    (hr : phaseReady s.phase = false) : exec (.compute klen mlen) s = .next s := by
  rw [exec_compute_of_lengths hf, hr, if_neg Bool.false_ne_true]

theorem acceptCompute_of_fits (hc : ∀ cap, s.inst.catCap = some cap → s.inst.B + mlen ≤ cap) :
    acceptCompute klen mlen s = (((s.clearTag).setErr .noError).setLens klen mlen).setPhase .keynorm :=
  if_neg (Bool.eq_false_iff.1 (capacityExceeded_eq_false.2 hc))

theorem acceptCompute_of_exceeds {cap : Nat} (hcap : s.inst.catCap = some cap)
    (h : cap < s.inst.B + mlen) : acceptCompute klen mlen s = (s.clearTag).raiseAllocationFailure :=
  if_pos (capacityExceeded_eq_true.2 ⟨cap, hcap, h⟩)

/-- STATUS after the failure exit: ERR 2 and PHASE 9 (R113). -/
theorem raiseAllocationFailure_status (s : State) : s.raiseAllocationFailure.status = 0x29 := by
  simp only [status_eq, raiseAllocationFailure_eq]
  decide

/-! ### The command in each phase -/

/-- Settles O13: acceptance clears the tag and takes one of its two forms by the capacity. -/
theorem computeIsAcceptedWhenReady : Obligations.ComputeIsAcceptedWhenReady := by
  intro s klen mlen hp hf
  have hx : exec (.compute klen mlen) s = .next (acceptCompute klen mlen s) := by
    rw [exec_compute_of_lengths hf, if_pos (phaseReady_iff.2 hp)]
  refine ⟨fun hc => ?_, fun cap hcap h => ?_⟩
  · rw [acceptCompute_of_fits hc] at hx
    exact ⟨_, hx, zeros_length _, fun k => zeros_getElem?, rfl, rfl, rfl, rfl, rfl, rfl,
      sameMemory_of_eq rfl rfl⟩
  · rw [acceptCompute_of_exceeds hcap h] at hx
    exact ⟨_, hx, zeros_length _, fun k => zeros_getElem?, rfl, rfl, rfl,
      raiseAllocationFailure_status _, ⟨rfl, rfl, rfl, rfl, rfl, rfl, rfl, rfl⟩, rfl, rfl, rfl,
      sameMemory_of_eq rfl rfl⟩

/-- Settles O14: neither a busy phase nor DEAD is ready, and STATUS of DEAD follows from its flags. -/
theorem computeBusyOrDeadChangesNothing : Obligations.ComputeBusyOrDeadChangesNothing := by
  intro s klen mlen hf
  refine ⟨fun hlo hhi => exec_compute_of_not_ready hf ?_, fun hp =>
    ⟨exec_compute_of_not_ready hf (by rw [hp]; rfl), fun he hv => by rw [status_eq, hp, he, hv]; rfl⟩⟩
  have hb : phaseBusy s.phase = true := by simp [phaseBusy, hlo, hhi]
  exact Bool.eq_false_iff.2 fun hr => by simp [phaseBusy_of_ready hr] at hb

end Sys2Proof.Machine
end

section
/-! SUPPORT. Key normalisation, form by form, and what `K0` holds when PHASE becomes PADS (R70 to
R75). -/

namespace Sys2Proof.Machine

variable {s t : State} {i : Instr} {j : Nat}

/-! ### Byte by byte -/

theorem memRead_getElem? {sp : Space} {k n : Nat} (h : j < n) :
    (s.memRead sp k n)[j]? = some (s.byteAt sp (k + j)) := by
  simp [State.memRead, h]

theorem keyBytes_getElem? (h : j < s.klen) : s.keyBytes[j]? = some (s.byteAt .key j) := by
  rw [State.keyBytes, memRead_getElem? h, Nat.zero_add]

theorem append_zeros_length {xs : Bytes} {m n : Nat} (hxs : xs.length = m) (h : m ≤ n) :
    (xs ++ zeros (n - m)).length = n := by
  rw [List.length_append, zeros_length, hxs, Nat.add_sub_cancel' h]

/-- Right padding keeps the bytes of the sequence. -/
theorem append_zeros_getElem?_left {xs : Bytes} {m n : Nat} (hxs : xs.length = m) (h : j < m) :
    (xs ++ zeros n)[j]? = xs[j]? :=
  List.getElem?_append_left (hxs ▸ h)

/-- Right padding adds nothing but zero bytes. -/
theorem append_zeros_getElem?_right {xs : Bytes} {m n : Nat} (hxs : xs.length = m) (hlo : m ≤ j)
    (hhi : j < n) : (xs ++ zeros (n - m))[j]? = some 0 := by
  rw [List.getElem?_append_right (hxs ▸ hlo), hxs, zeros_getElem? (Nat.sub_lt_sub_right hlo hhi)]

/-! ### Each form where it is selected -/

/-- Settles O16: the request is the key, read byte by byte. -/
theorem keynormLongSendsTheKey : Obligations.KeynormLongSendsTheKey := by
  intro s hp hk hq
  exact ⟨_, s.keyBytes, execKeynormLong_next.2 ⟨hp, hk, hq, rfl⟩, rfl, keyBytes_length s,
    fun _ => keyBytes_getElem?, rfl, rfl, sameMemory_of_eq rfl rfl⟩

/-- Settles O17: the digest has `H` bytes, and zeros fill the block. -/
theorem keyhashRspFillsK0 : Obligations.KeyhashRspFillsK0 := by
  intro s q hp hq hv
  have hlen := hashOf_length s.inst q
  exact ⟨_, execKeyhashRsp_next.2 ⟨hp, q, hq, rfl⟩, append_zeros_length hlen hv,
    fun _ => append_zeros_getElem?_left hlen, fun _ => append_zeros_getElem?_right hlen, rfl, rfl, rfl,
    sameMemory_of_eq rfl rfl⟩

/-- Settles O18: the key has KLEN bytes, and zeros fill the block. -/
theorem keynormShortPadsTheKey : Obligations.KeynormShortPadsTheKey := by
  intro s hp hk
  have hlen := keyBytes_length s
  exact ⟨_, execKeynormShort_next.2 ⟨hp, hk, rfl⟩, append_zeros_length hlen hk.le,
    fun _ hj => (append_zeros_getElem?_left hlen hj).trans (keyBytes_getElem? hj),
    fun _ => append_zeros_getElem?_right hlen, rfl, rfl, sameMemory_of_eq rfl rfl⟩

/-- Settles O19: the key has the length of the block. -/
theorem keynormEqualCopiesTheKey : Obligations.KeynormEqualCopiesTheKey := by
  intro s hp hk
  exact ⟨_, execKeynormEqual_next.2 ⟨hp, hk, rfl⟩, (keyBytes_length s).trans hk,
    fun _ hj => keyBytes_getElem? (hk ▸ hj), rfl, rfl, sameMemory_of_eq rfl rfl⟩

/-! ### Each form where it is not selected -/

theorem exec_keynormLong_of_le (h : s.klen ≤ s.inst.B) :
    exec .keynormLong s = .refused .notSelected :=
  if_neg fun ⟨_, hlt⟩ => Nat.not_lt.2 h hlt

theorem exec_keynormShort_of_ge (h : s.inst.B ≤ s.klen) :
    exec .keynormShort s = .refused .notSelected :=
  if_neg fun ⟨_, hlt⟩ => Nat.not_lt.2 h hlt

theorem exec_keynormEqual_of_ne (h : s.klen ≠ s.inst.B) :
    exec .keynormEqual s = .refused .notSelected :=
  if_neg fun ⟨_, heq⟩ => h heq

/-- Settles O20: KLEN is above, below or at `B`, and two of the three forms are refused in each case. -/
theorem keynormFormsExcludeOneAnother : Obligations.KeynormFormsExcludeOneAnother := by
  intro s hp hq
  refine ⟨fun hk => ?_, fun hk => ?_, fun hk => ?_⟩
  · exact ⟨⟨_, execKeynormLong_next.2 ⟨hp, hk, hq, rfl⟩⟩, exec_keynormShort_of_ge hk.le,
      exec_keynormEqual_of_ne hk.ne'⟩
  · exact ⟨⟨_, execKeynormShort_next.2 ⟨hp, hk, rfl⟩⟩, exec_keynormLong_of_le hk.le,
      exec_keynormEqual_of_ne hk.ne⟩
  · exact ⟨⟨_, execKeynormEqual_next.2 ⟨hp, hk, rfl⟩⟩, exec_keynormLong_of_le hk.le,
      exec_keynormShort_of_ge hk.ge⟩

/-! ### The step into PADS -/

/-- A working step keeps the parameters and the key. -/
theorem Advances.key (h : Advances s t) : t.inst = s.inst ∧ t.keyBytes = s.keyBytes := by
  rw [h.frame]
  exact ⟨rfl, rfl⟩

/-- PADS is entered by a working step alone. -/
theorem effect_enters_pads (h : Effect s t i) (hp : s.phase ≠ .pads) (ht : t.phase = .pads) :
    Advances s t := by
  rcases effect_kinds h with ⟨-, rfl | ⟨-, ht' | ht'⟩⟩ | ⟨-, rfl⟩ | ⟨-, ht', -⟩ | ha
  · exact absurd ht hp
  · exact absurd (ht'.symm.trans ht) nofun
  · exact absurd (ht'.symm.trans ht) nofun
  · rw [engineReset_phase] at ht
    split at ht <;> cases ht
  · exact absurd (ht'.symm.trans ht) nofun
  · exact ha

theorem step_enters_pads (h : step s = .next t) (hp : s.phase ≠ .pads) (ht : t.phase = .pads) :
    Advances (afterEvent s) t := by
  rcases step_effect h with ⟨i, -, he⟩ | ⟨sp, k, bs, -, rfl, -⟩ | ⟨-, rfl⟩
  · exact effect_enters_pads he hp ht
  · rw [placeBytes_frame] at ht
    exact absurd ht hp
  · exact absurd ht hp

/-- A step into PADS leaves `K0` of R9 for the caller's key in `K0` (R75). -/
theorem step_into_pads_k0 (hs : s.Inv) (hc : s.Carries) (h : step s = .next t)
    (hp : s.phase ≠ .pads) (ht : t.phase = .pads) : t.k0 = blockSizedKey s.inst s.keyBytes := by
  obtain ⟨hinst, hkey⟩ := (step_enters_pads h hp ht).key
  calc t.k0 = blockSizedKey t.inst t.keyBytes :=
        (carries_pads ht).1 (stepKeepsTheReferenceValues s t hs hc h)
    _ = blockSizedKey s.inst s.keyBytes := by rw [hinst, hkey]; rfl

/-- Settles O21: `K0` of R9 in its three branches; its length is the invariant's. -/
theorem keyNormalisationPostcondition : Obligations.KeyNormalisationPostcondition := by
  intro s t hs hc h hp ht
  obtain ⟨hk0, -⟩ := (stepKeepsTheInvariant s t hs h).sizes
  rw [parametersNeverChange s t h] at hk0
  refine ⟨hk0, ?_⟩
  rw [step_into_pads_k0 hs hc h hp ht]
  have hlen := keyBytes_length s
  refine ⟨fun hk => blockSizedKey_of_gt (hlen ▸ hk), fun hk => ?_, fun hk => ?_⟩
  · rw [blockSizedKey_of_le (hlen ▸ hk.le), hlen]
    rfl
  · rw [blockSizedKey_of_le (hlen ▸ hk.le), hlen, hk, Nat.sub_self, zeros_zero, List.append_nil]

end Sys2Proof.Machine
end

section
/-! SUPPORT. The two pads, byte by byte (R80 to R82). -/

namespace Sys2Proof.Machine

/-- A byte of the result comes from the byte in the same position and from no other (R82). -/
theorem xorEach_getElem?_eq_some {b x : Byte} {xs : Bytes} {i : Nat} :
    (xorEach b xs)[i]? = some x ↔ ∃ k, xs[i]? = some k ∧ k ^^^ b = x := by
  rw [xorEach_getElem?, Option.map_eq_some_iff]

/-- The two pad bytes of one key byte differ by 0x6a, whatever that byte is (R81). -/
theorem ipad_xor_opad (k : Byte) : (k ^^^ ipadByte) ^^^ (k ^^^ opadByte) = 0x6a :=
  calc (k ^^^ ipadByte) ^^^ (k ^^^ opadByte) = ipadByte ^^^ opadByte := by
        rw [xor_comm k, xor_assoc, xor_cancel_left]
    _ = 0x6a := rfl

/-- Settles O22: PADS has no other condition than its phase. -/
theorem padsXorEveryByte : Obligations.PadsXorEveryByte := by
  intro s hp hk
  exact ⟨_, execPads_next.2 ⟨hp, rfl⟩, (xorEach_length _ _).trans hk, (xorEach_length _ _).trans hk,
    fun i _ => ⟨xorEach_getElem? _ _ i, xorEach_getElem? _ _ i⟩, rfl, rfl, sameMemory_of_eq rfl rfl⟩

/-- Settles O23: both bytes of a position come from one byte of `K0`. -/
theorem padsDifferBy6aEverywhere : Obligations.PadsDifferBy6aEverywhere := by
  intro s t h
  obtain ⟨-, rfl⟩ := execPads_next.1 h
  refine ⟨xorEach_length _ _, xorEach_length _ _, fun i x y hx hy => ?_⟩
  obtain ⟨k, hk, rfl⟩ := xorEach_getElem?_eq_some.1 hx
  obtain ⟨k', hk', rfl⟩ := xorEach_getElem?_eq_some.1 hy
  obtain rfl : k = k' := Option.some.inj (hk.symm.trans hk')
  have hdiff := ipad_xor_opad k
  refine ⟨hdiff, fun heq => ?_, hk.trans (congrArg some (xor_cancel_right k ipadByte).symm)⟩
  exact absurd (hdiff.symm.trans (xor_eq_zero_iff.2 heq)) (by decide)

end Sys2Proof.Machine
end

section
/-! SUPPORT. The inner hash: the request byte by byte, and its response (R85 to R87). -/

namespace Sys2Proof.Machine

theorem msgBytes_getElem? {s : State} {j : Nat} (h : j < s.mlen) :
    s.msgBytes[j]? = some (s.byteAt .msg j) := by
  rw [State.msgBytes, memRead_getElem? h, Nat.zero_add]

/-- The bytes after a sequence of `n` bytes are those of what is appended to it. -/
theorem append_getElem?_add_of_length {xs ys : Bytes} {n : Nat} (hxs : xs.length = n) (j : Nat) :
    (xs ++ ys)[n + j]? = ys[j]? := by
  rw [List.getElem?_append_right (hxs ▸ Nat.le_add_right n j), hxs, Nat.add_sub_cancel_left]

/-- Settles O24: the pad fills the first `B` places, so the message stands from place `B` on. -/
theorem innerReqSendsPadThenMessage : Obligations.InnerReqSendsPadThenMessage := by
  intro s hp hq hpad
  have hlen : (s.ipadb ++ s.msgBytes).length = s.inst.B + s.mlen := by
    rw [List.length_append, hpad, msgBytes_length]
  exact ⟨_, execInnerReq_next.2 ⟨hp, hq, rfl⟩, hlen,
    fun _ hj => List.getElem?_append_left (hpad ▸ hj),
    fun j hj => (append_getElem?_add_of_length hpad j).trans (msgBytes_getElem? hj), rfl, rfl, rfl,
    sameMemory_of_eq rfl rfl⟩

/-- Settles O25: the capability's answer has `H` bytes for every request. -/
theorem innerRspTakesTheDigest : Obligations.InnerRspTakesTheDigest := by
  intro s q hp hq
  exact ⟨_, execInnerRsp_next.2 ⟨hp, q, hq, rfl⟩, rfl, hashOf_length _ _, rfl, rfl, rfl,
    sameMemory_of_eq rfl rfl⟩

end Sys2Proof.Machine
end

section
/-! SUPPORT. The outer hash: the request byte by byte, and the delivery of the tag (R90 to R93). -/

namespace Sys2Proof.Machine

/-- Storing the tag leaves no working buffer or register with anything in it (R93). -/
theorem storeTag_zeroed (g : Bytes) (s : State) : (storeTag g s).Zeroed :=
  ⟨rfl, rfl, rfl, rfl, rfl, rfl, rfl, rfl⟩

@[simp] theorem storeTag_phase (g : Bytes) (s : State) : (storeTag g s).phase = .done := rfl
@[simp] theorem storeTag_tagv (g : Bytes) (s : State) : (storeTag g s).tagv = true := rfl
@[simp] theorem storeTag_err (g : Bytes) (s : State) : (storeTag g s).err = s.err := rfl

/-- STATUS after the tag is stored without an error: TAGV and PHASE 8 (R91). -/
theorem storeTag_status (g : Bytes) {s : State} (h : s.err = .noError) :
    (storeTag g s).status = 0x48 := by
  rw [status_eq, storeTag_phase, storeTag_tagv, storeTag_err, h]
  rfl

/-- Settles O26: the pad fills the first `B` places, so the digest stands from place `B` on. -/
theorem outerReqSendsPadThenDigest : Obligations.OuterReqSendsPadThenDigest := by
  intro s hp hq hpad hdig
  have hlen : (s.opadb ++ s.idig).length = s.inst.B + s.inst.H := by
    rw [List.length_append, hpad, hdig]
  exact ⟨_, execOuterReq_next.2 ⟨hp, hq, rfl⟩, hlen,
    fun _ hj => List.getElem?_append_left (hpad ▸ hj),
    fun j _ => append_getElem?_add_of_length hpad j, rfl, rfl, rfl, sameMemory_of_eq rfl rfl⟩

/-- Settles O27: the response is stored as the tag in the step that zeroises the working buffers. -/
theorem outerRspDeliversTagAndZeroises : Obligations.OuterRspDeliversTagAndZeroises := by
  intro s q hp hq
  exact ⟨_, execOuterRsp_next.2 ⟨hp, q, hq, rfl⟩, rfl, hashOf_length _ _, rfl, storeTag_zeroed _ _,
    rfl, rfl, rfl, fun he => storeTag_status _ he, rfl, rfl, sameMemory_of_eq rfl rfl⟩

end Sys2Proof.Machine
end

section
/-! SUPPORT. The hash interface: which requests the engine sends and when their frames pass (R100, R107),
and which responses it takes (R98, R101, R105). -/

namespace Sys2Proof.Machine

variable {s t : State} {i : Instr} {q : Bytes}

/-! ### The request frame -/

theorem ipadb_append_msgBytes_length (h : s.ipadb.length = s.inst.B) :
    (s.ipadb ++ s.msgBytes).length = s.inst.B + s.mlen := by
  rw [List.length_append, h, msgBytes_length]

theorem opadb_append_idig_length (hpad : s.opadb.length = s.inst.B) (hdig : s.idig.length = s.inst.H) :
    (s.opadb ++ s.idig).length = s.inst.B + s.inst.H := by
  rw [List.length_append, hpad, hdig]

/-- Settles O28: the frame has the exact length of the request of its phase, and passes as the step that
issues it. -/
theorem hashreqPassesInTheIssuingStep : Obligations.HashreqPassesInTheIssuingStep := by
  intro s hq
  refine ⟨fun hp hk hfits => ?_, fun hp hpad hB hfits => ?_, fun hp hpad hdig hB hfits => ?_,
    fun n data w hw hlong => ?_⟩
  · have hx := execKeynormLong_next.2 ⟨hp, hk, hq, rfl⟩
    exact ⟨_, execHashreq_next.2 ⟨requestLengthFits_iff.2 hfits, (keyBytes_length s).symm,
      Nat.one_le_of_lt hk, .inl ⟨rfl, hx⟩⟩, hx, rfl⟩
  · have hx := execInnerReq_next.2 ⟨hp, hq, rfl⟩
    exact ⟨_, execHashreq_next.2 ⟨requestLengthFits_iff.2 hfits,
      (ipadb_append_msgBytes_length hpad).symm, Nat.le_add_right_of_le hB,
      .inr (.inl ⟨rfl, hx⟩)⟩, hx, rfl⟩
  · have hx := execOuterReq_next.2 ⟨hp, hq, rfl⟩
    exact ⟨_, execHashreq_next.2 ⟨requestLengthFits_iff.2 hfits,
      (opadb_append_idig_length hpad hdig).symm, Nat.le_add_right_of_le hB,
      .inr (.inr ⟨rfl, hx⟩)⟩, hx, rfl⟩
  · exact if_neg fun hfits => Nat.not_lt.2 hlong (requestLengthFits_iff.1 hfits w hw)

/-- Settles O29: a frame passes only as an issuing step, which needs no request outstanding and
leaves the bytes of the frame as the outstanding one. -/
theorem hashreqOnlyWhatTheEngineSends : Obligations.HashreqOnlyWhatTheEngineSends := by
  intro s t n data h
  obtain ⟨hfits, hn, hpos, hstep⟩ := execHashreq_next.1 h
  refine ⟨hn, hpos, requestLengthFits_iff.1 hfits, ?_⟩
  rcases hstep with ⟨rfl, hx⟩ | ⟨rfl, hx⟩ | ⟨rfl, hx⟩
  · obtain ⟨-, -, hq, rfl⟩ := execKeynormLong_next.1 hx
    exact ⟨hq, rfl, .inl hx⟩
  · obtain ⟨-, hq, rfl⟩ := execInnerReq_next.1 hx
    exact ⟨hq, rfl, .inr (.inl hx)⟩
  · obtain ⟨-, hq, rfl⟩ := execOuterReq_next.1 hx
    exact ⟨hq, rfl, .inr (.inr hx)⟩

/-! ### The requests -/

/-- R107: the three requests the engine can send, each in a phase of its own. -/
theorem requestToSend_eq_some :
    requestToSend s = some q ↔
      (s.phase = .keynorm ∧ s.inst.B < s.klen ∧ q = s.keyBytes) ∨
        (s.phase = .inner ∧ q = s.ipadb ++ s.msgBytes) ∨
        (s.phase = .outer ∧ q = s.opadb ++ s.idig) := by
  unfold requestToSend
  cases s.phase <;> simp [eq_comm]

/-- An effect that makes a request outstanding sends the request of the phase (R100). -/
theorem effect_sends (h : Effect s t i) (hn : s.hreq = none) (hq : t.hreq = some q) :
    requestToSend s = some q := by
  have hnone : ∀ q', s.hreq ≠ some q' := fun q' h => nomatch hn.symm.trans h
  rw [requestToSend_eq_some]
  cases h with
  | keySent i hi h hk _ e => subst e; exact .inl ⟨h, hk, (Option.some.inj hq).symm⟩
  | innerSent i hi h _ e => subst e; exact .inr (.inl ⟨h, (Option.some.inj hq).symm⟩)
  | outerSent i hi h _ e => subst e; exact .inr (.inr ⟨h, (Option.some.inj hq).symm⟩)
  | keyDigest i q' hi h hq' e => exact absurd hq' (hnone q')
  | innerDigest i q' hi h hq' e => exact absurd hq' (hnone q')
  | delivered i q' hi h hq' e => exact absurd hq' (hnone q')
  | wasReset e => subst e; exact absurd hq nofun
  | ignored k m h e => subst e; exact absurd hq (hnone q)
  | started k m h hf hc e => subst e; exact absurd hq (hnone q)
  | failed k m h hc e => subst e; exact absurd hq (hnone q)
  | keyPadded h hk e => subst e; exact absurd hq (hnone q)
  | keyCopied h hk e => subst e; exact absurd hq (hnone q)
  | padded h e => subst e; exact absurd hq (hnone q)

/-- A step that makes a request outstanding sends the request of the phase. -/
theorem step_sends (h : step s = .next t) (hn : s.hreq = none) (hq : t.hreq = some q) :
    requestToSend s = some q := by
  rcases step_effect h with ⟨i, -, he⟩ | ⟨sp, j, bs, -, rfl, -⟩ | ⟨-, rfl⟩
  · exact effect_sends (s := afterEvent s) he hn hq
  · rw [placeBytes_frame] at hq
    exact absurd (hn.symm.trans hq) nofun
  · exact absurd (hn.symm.trans hq) nofun

/-- R5: no block and no digest is empty. -/
theorem sizes_pos_of_wf {c : Inst} (h : c.wf = true) : 1 ≤ c.B ∧ 1 ≤ c.H := by
  simp only [Inst.wf, Bool.and_eq_true, decide_eq_true_eq] at h
  obtain ⟨⟨⟨hB, hH⟩, -⟩, -⟩ := h
  exact ⟨hB, hH⟩

/-- Settles O30: the invariant gives each of the three requests its length, and bounds KLEN, MLEN and
`B + MLEN`. -/
theorem requestsThatCanOccur : Obligations.RequestsThatCanOccur := by
  intro s t q hs h hn hq
  obtain ⟨hB, hH⟩ := sizes_pos_of_wf (step_next.1 h).1
  obtain ⟨-, hip, hop, -, hidig, -⟩ := hs.sizes
  obtain ⟨hklen, hmlen⟩ := hs.lengths
  rw [lengthFits_iff] at hklen hmlen
  rcases requestToSend_eq_some.1 (step_sends h hn hq) with ⟨hp, hk, rfl⟩ | ⟨hp, rfl⟩ | ⟨hp, rfl⟩
  · have hlen := keyBytes_length s
    refine ⟨fun w hw _ _ => ?_,
      .inl ⟨hp, hk, rfl, hlen, hlen ▸ hk, fun w hw => hlen ▸ hklen w hw⟩⟩
    calc s.keyBytes.length = s.klen := hlen
      _ < 2 ^ w := hklen w hw
      _ < 2 ^ (w + 1) := Nat.pow_lt_pow_succ Nat.one_lt_two
  · have hlen := ipadb_append_msgBytes_length hip
    have hcap := capacityExceeded_eq_false.1 (hs.capacity (by rw [State.busy, hp]; rfl))
    refine ⟨fun w hw hBw _ => ?_, .inr (.inl ⟨hp, rfl, hlen, ?_, fun cap hc => hlen ▸ hcap cap hc⟩)⟩
    · calc (s.ipadb ++ s.msgBytes).length = s.inst.B + s.mlen := hlen
        _ < 2 ^ w + 2 ^ w := Nat.add_lt_add_of_le_of_lt hBw (hmlen w hw)
        _ = 2 ^ (w + 1) := (Nat.two_pow_succ w).symm
    · exact hlen ▸ Nat.le_add_right_of_le hB
  · have hlen := opadb_append_idig_length hop hidig
    exact ⟨fun w _ _ hfits => hlen ▸ hfits,
      .inr (.inr ⟨hp, rfl, hlen, hlen ▸ Nat.add_le_add hB hH⟩)⟩

/-! ### The response frame -/

/-- Settles O31: the frame with the capability's answer is the response step of the phase. -/
theorem hashrspIsTheResponseStep : Obligations.HashrspIsTheResponseStep := by
  intro s q hq
  refine ⟨fun hp => ?_, fun hp => ?_, fun hp => ?_⟩
  · have hx := execKeyhashRsp_next.2 ⟨hp, q, hq, rfl⟩
    exact ⟨_, execHashrsp_next.2 ⟨⟨q, hq, rfl⟩, .inl hx⟩, hx, rfl⟩
  · have hx := execInnerRsp_next.2 ⟨hp, q, hq, rfl⟩
    exact ⟨_, execHashrsp_next.2 ⟨⟨q, hq, rfl⟩, .inr (.inl hx)⟩, hx, rfl⟩
  · have hx := execOuterRsp_next.2 ⟨hp, q, hq, rfl⟩
    exact ⟨_, execHashrsp_next.2 ⟨⟨q, hq, rfl⟩, .inr (.inr hx)⟩, hx, rfl⟩

/-- A response is taken in a wait phase (R25, R101). -/
theorem exec_hashrsp_waits {g : Bytes} (h : exec (.hashrsp g) s = .next t) :
    phaseWaits s.phase = true := by
  obtain ⟨-, hx | hx | hx⟩ := execHashrsp_next.1 h
  · rw [(execKeyhashRsp_next.1 hx).1]; rfl
  · rw [(execInnerRsp_next.1 hx).1]; rfl
  · rw [(execOuterRsp_next.1 hx).1]; rfl

/-- R105: a response that answers no request is refused by name. -/
theorem exec_hashrsp_of_hreq_none {g : Bytes} (h : s.hreq = none) :
    exec (.hashrsp g) s = .refused .noRequestOutstanding := by
  simp only [exec, execHashrsp, h]

/-- R105: a response with another number of bytes than `H` is refused by name. -/
theorem exec_hashrsp_of_length_ne {g : Bytes} (h : s.hreq = some q) (hg : g.length ≠ s.inst.H) :
    exec (.hashrsp g) s = .refused .malformedResponse := by
  simp only [exec, execHashrsp, h, if_pos hg]

/-- Settles O32: what is taken is the capability's own answer, which has `H` bytes; the two refusals come
before the phase is asked for. -/
theorem hashrspOutsideTheContractStops : Obligations.HashrspOutsideTheContractStops := by
  refine ⟨fun s t g h => ?_, fun s g => exec_hashrsp_of_hreq_none,
    fun s g q => exec_hashrsp_of_length_ne⟩
  obtain ⟨⟨q, hq, rfl⟩, -⟩ := execHashrsp_next.1 h
  exact ⟨q, hq, rfl, hashOf_length s.inst q, exec_hashrsp_waits h⟩

end Sys2Proof.Machine
end

section
/-! SUPPORT. The two failure exits (R110 to R117): who enters FAILED and what the engine does there, and
that DEAD has no way out. -/

namespace Sys2Proof.Machine

variable {s t : State} {i : Instr} {klen mlen : Nat}

/-! ### FAILED -/

/-- FAILED is the result of a COMPUTE over capacity alone, also where the phase was FAILED before (R111). -/
theorem effect_failed (h : Effect s t i) (ht : t.phase = .failed) :
    ∃ k m, i = .compute k m ∧ phaseReady s.phase = true ∧ capacityExceeded s.inst m = true ∧
      t = (s.clearTag).raiseAllocationFailure := by
  cases h with
  | failed k m h hc e => exact ⟨k, m, rfl, h, hc, e⟩
  | ignored k m h e =>
    subst e
    rw [ht] at h
    cases h
  | wasReset e =>
    rw [e, engineReset_phase] at ht
    split at ht <;> cases ht
  | started _ _ _ _ _ e | keySent _ _ _ _ _ e | keyPadded _ _ e | keyCopied _ _ e
  | keyDigest _ _ _ _ _ e | padded _ e | innerSent _ _ _ _ e | innerDigest _ _ _ _ _ e
  | outerSent _ _ _ _ e | delivered _ _ _ _ _ e =>
    subst e
    cases ht

/-- Settles O45: the COMPUTE that enters FAILED was ready for acceptance and over capacity; of the ready
phases FAILED itself is excluded. -/
theorem failedOnlyByCapacity : Obligations.FailedOnlyByCapacity := by
  intro i s t h ht hs
  obtain ⟨klen, mlen, hi, hr, hc, -⟩ := effect_failed (exec_effect h) ht
  obtain ⟨cap, hcap, hlt⟩ := capacityExceeded_eq_true.1 hc
  have hphase : s.phase = .idle ∨ s.phase = .done := by
    rcases phaseReady_iff.1 hr with hp | hp | hp
    · exact .inl hp
    · exact .inr hp
    · exact absurd hp hs
  exact ⟨klen, mlen, cap, hi, hphase, hcap, hlt⟩

/-- A second AllocationFailure changes nothing more (R113, R116). -/
theorem raiseAllocationFailure_idem (s : State) :
    ((s.raiseAllocationFailure).clearTag).raiseAllocationFailure = s.raiseAllocationFailure := rfl

theorem lengthFits_of_le {c : Inst} {m n : Nat} (hle : m ≤ n) (h : c.lengthFits n = true) :
    c.lengthFits m = true :=
  lengthFits_iff.2 fun w hw => hle.trans_lt (lengthFits_iff.1 h w hw)

theorem exec_compute_of_ready (hk : s.inst.lengthFits klen = true) (hm : s.inst.lengthFits mlen = true)
    (hr : phaseReady s.phase = true) :
    exec (.compute klen mlen) s = .next (acceptCompute klen mlen s) :=
  execCompute_next.2 ⟨⟨hk, hm⟩, (if_pos hr).symm⟩

/-- With no move to come, FAILED waits for the HOST (R13, R116). -/
theorem step_failed_waits (hw : s.inst.wf = true) (he : s.events = []) (hp : s.phase = .failed) :
    step s = .next s := by
  rw [step_waits (es := []) hw (.inr ⟨he, rfl⟩) (.inr (.inr (.inl hp))), ← he]

/-- Settles O15: the failed command left the failure exit behind, which waits, which the same failure
leaves as it is, and which is ready for a command that fits. -/
theorem allocationFailureIsNotRetried : Obligations.AllocationFailureIsNotRetried := by
  intro s t klen mlen _ h ht
  obtain ⟨⟨hklen, hmlen⟩, -⟩ := execCompute_next.1 h
  obtain ⟨_, _, ⟨⟩, -, hc, e⟩ := effect_failed (exec_effect h) ht
  obtain ⟨hinst, -, -, hev⟩ := effect_surroundings (exec_effect h)
  have hready : phaseReady t.phase = true := by rw [ht]; rfl
  rw [← hinst] at hklen hmlen hc ⊢
  refine ⟨fun hw he => step_failed_waits hw (hev.trans he) ht, ?_, fun m hm hfit => ?_⟩
  · obtain ⟨cap, hcap, hlt⟩ := capacityExceeded_eq_true.1 hc
    have hsame : acceptCompute klen mlen t = t := by
      rw [acceptCompute_of_exceeds hcap hlt, e, raiseAllocationFailure_idem]
    rw [exec_compute_of_ready hklen hmlen hready, hsame]
  · have hfits : ∀ cap, t.inst.catCap = some cap → t.inst.B + m ≤ cap := fun cap hcap => by
      simpa [hcap] using hfit
    have hx := exec_compute_of_ready hklen (lengthFits_of_le hm hmlen) hready
    rw [acceptCompute_of_fits hfits] at hx
    exact ⟨_, hx, rfl, rfl⟩

/-! ### DEAD -/

/-- In a state of the invariant PHASE = DEAD fixes all but the parameters, the caller spaces and the moves
to come (R132). -/
theorem State.Inv.of_dead (hs : s.Inv) (hp : s.phase = .dead) :
    s.err = .invalidHashParameters ∧ s.status = 0x1A ∧ s.hreq = none ∧ s.Zeroed ∧
      s.tag = zeros s.inst.H := by
  obtain ⟨htagv, herr⟩ := hs.flags_of_phase
  have hstatus := hs.status_of_phase
  have hreq := hs.request
  rw [hp] at htagv herr hstatus hreq
  have hbusy : s.busy = false := by rw [State.busy, hp]; rfl
  exact ⟨herr, hstatus, Option.not_isSome_iff_eq_none.1 (Bool.eq_false_iff.1 hreq), hs.idleZero hbusy,
    hs.tagClear htagv⟩

/-- Settles O46: under the invariant DEAD is `H > B`, and a step changes neither parameter. -/
theorem deadIsForEver : Obligations.DeadIsForEver := by
  intro s t hs hp h
  have ht : t.Inv := stepKeepsTheInvariant s t hs h
  have hinst : t.inst = s.inst := parametersNeverChange s t h
  have hdead : t.phase = .dead := ht.dead.2 (by rw [hinst]; exact hs.dead.1 hp)
  obtain ⟨herr, hstatus, hreq, hzero, htag⟩ := ht.of_dead hdead
  exact ⟨hdead, herr, hstatus, hreq, hzero, by rw [htag, hinst]; rfl⟩

end Sys2Proof.Machine
end

section
/-! SUPPORT. Waiting, and what the reset signal leaves (R104, R130 to R133). -/

namespace Sys2Proof.Machine

variable {s : State} {es : List Event}

/-! ### Waiting -/

/-- With no move to come, a phase that selects no micro-operation is a fixed point of the step (R13). -/
theorem step_eq_self_of_waiting (hw : s.inst.wf = true) (he : s.events = [])
    (hp : s.phase = .idle ∨ s.phase = .done ∨ s.phase = .failed ∨ s.phase = .dead) :
    step s = .next s := by
  rw [step_waits hw (.inr ⟨he, rfl⟩) hp, ← he]

/-- Time passing takes its move off the list and nothing else, in any phase (R12, R104). -/
theorem step_pass (hw : s.inst.wf = true) (he : s.events = .pass :: es) :
    step s = .next { s with events := es } := by
  rw [step_moves hw (by rw [nextEvent_cons he]; rfl), nextEvent_cons he, afterEvent_cons he]
  rfl

/-- Settles O9: no agent has a step in the four waiting phases, and `pass` is no agent's step. -/
theorem engineWaitsUnchanged : Obligations.EngineWaitsUnchanged :=
  ⟨fun _ => step_eq_self_of_waiting, fun _ _ => step_pass⟩

/-! ### Reset -/

theorem exec_reset (s : State) : exec .reset s = .next s.engineReset := execReset_next.2 rfl

/-- Reset leaves the engine in one of two phases, by the configuration check (R132). -/
theorem engineReset_idle_or_dead (s : State) :
    s.engineReset.phase = .idle ∨ s.engineReset.phase = .dead := by
  rw [engineReset_phase]
  exact ite_eq_or_eq _ _ _

/-- After a reset with no move to come the engine waits (R131). -/
theorem step_engineReset (hw : s.inst.wf = true) (he : s.events = []) :
    step s.engineReset = .next s.engineReset :=
  step_eq_self_of_waiting hw he <| (engineReset_idle_or_dead s).imp_right fun h => .inr (.inr h)

/-- Reset leaves no working buffer or register with anything in it (R131). -/
theorem engineReset_zeroed (s : State) : s.engineReset.Zeroed :=
  ⟨rfl, rfl, rfl, rfl, rfl, rfl, rfl, rfl⟩

/-- Settles O33: the engine's part of the state is the reset state of the instance (`engineReset_eq`),
whose values are those of R29; the rest stays. -/
theorem resetLeavesTheResetState : Obligations.ResetLeavesTheResetState := by
  intro s
  obtain ⟨-, -, -, -, -, -, -, htag, hzero, -, -, hvalid, hinvalid⟩ := resetValues s.inst
  refine ⟨_, exec_reset s, engineReset_zeroed s, htag, hzero, rfl, rfl, fun h => ?_, fun h => ?_,
    rfl, rfl, sameMemory_of_eq rfl rfl, step_engineReset⟩
  · obtain ⟨hphase, herr, hstatus⟩ := hvalid h
    exact ⟨herr, hphase, hstatus⟩
  · obtain ⟨hphase, herr, hstatus⟩ := hinvalid h
    exact ⟨herr, hphase, hstatus⟩

/-- Settles O35: reset leaves no request outstanding, and a response that answers none is refused. -/
theorem resetAbandonsTheRequest : Obligations.ResetAbandonsTheRequest :=
  fun s _ => ⟨_, exec_reset s, rfl, exec_hashrsp_of_hreq_none rfl⟩

end Sys2Proof.Machine
end
